-- ==== Sys2Proof/Word.lean ====
section
/-! DEFINITION. The words of DLPC900-FC: bytes, 16-bit fields and byte strings (R7, R8). -/

namespace Sys2Proof

/-- A byte, value 0 to 255, bit 7 the most significant (R7). -/
abbrev Byte := BitVec 8

/-- A u16, value 0 to 65535 (R7). -/
abbrev Half := BitVec 16

/-- A byte string, index 0 first (R8). -/
abbrev ByteString := List Byte

end Sys2Proof
end

