-- ==== Sys2Proof/Config.lean ====
section
/-! DEFINITION. The constants the source fixes (R5) and the one open parameter the machine reads (R6). -/

namespace Sys2Proof.Config

/-- CHUNK: bytes in one USB packet and one WireChunk (R5). -/
abbrev chunkBytes : Nat := 64
/-- HDR: command frame header bytes (R5). -/
abbrev headerBytes : Nat := 6
/-- MAXFRAME: greatest serialized command frame (R5). -/
abbrev maxFrame : Nat := 512
/-- MAXPAY: greatest payload (R5). -/
abbrev maxPayload : Nat := 506
/-- FIRSTPAY: payload bytes the first chunk can hold (R5). -/
abbrev firstPayload : Nat := 58
/-- MAXCHUNKS: greatest chunk count (R5). -/
abbrev maxChunks : Nat := 8
/-- LENBIAS: length field = payload length + 2 (R5). -/
abbrev lenBias : Nat := 2
/-- RHDR: reply header bytes the parser needs (R5). -/
abbrev replyHeaderBytes : Nat := 4
/-- ERRBIT: bit of the reply flag byte that is error_flag (R5). -/
abbrev errBit : Nat := 5
/-- DIRBIT: bit of the command flag byte that is the direction (R5). -/
abbrev dirBit : Nat := 7
/-- FLAGLOW: fixed bits 6 to 0 of the command flag byte, 1000000 with bit 6 first (R5, R7; D8). -/
abbrev flagLow : Nat := 64
/-- SLEN: serial frame bytes (R5). -/
abbrev serialBytes : Nat := 10
/-- SHEAD, first byte (R5, R53). -/
abbrev serialHead0 : Byte := 0x55
/-- SHEAD, second byte (R5, R53). -/
abbrev serialHead1 : Byte := 0xAA
/-- STAIL, first byte (R5, R53). -/
abbrev serialTail0 : Byte := 0xDA
/-- STAIL, second byte (R5, R53). -/
abbrev serialTail1 : Byte := 0xC3
/-- USBWIN: bytes of one USB reply read window (R5, environment). -/
abbrev usbWindow : Nat := 64
/-- SERWIN: bytes of one serial read window (R5, environment). -/
abbrev serialWindow : Nat := 10
/-- EP_OUT: USB bulk OUT endpoint address (R5, environment). -/
abbrev endpointOut : Nat := 1
/-- EP_IN: USB bulk IN endpoint address (R5, environment). -/
abbrev endpointIn : Nat := 0x81
/-- OTF_CHUNK: on-the-fly load data bytes per transaction (R5, R262, environment). -/
abbrev onTheFlyChunk : Nat := 60

/-- SADDR_RESET, the value of SADDR after reset: an open parameter (R6, D16). It has no body, so every
theorem holds for every value of it (log 1). -/
opaque saddrReset : Byte

end Sys2Proof.Config
end

