-- ==== Sys2Proof/Syntax.lean ====
section
/-! DEFINITION. The 22 rows of spec/opcode_table.json as one inductive, and the entries of the host port. -/

namespace Sys2Proof

/-- Direction of a command frame (R25): coded Read = 1, Write = 0 (D28). -/
inductive Dir where
  | write
  | read
deriving DecidableEq, Repr

/-- The bit a direction is coded as (R25, R99). -/
def Dir.bit : Dir → Nat
  | .write => 0
  | .read => 1

/-- One constructor per row of spec/opcode_table.json, in the table's order. -/
inductive Instr where
  /-- UBUILD dir, seq, cmd, pay (R120). -/
  | ubuild (dir : Dir) (seq : Byte) (cmd : Half) (pay : ByteString)
  /-- USER (R121). -/
  | user
  /-- UCHUNK (R122). -/
  | uchunk
  /-- UPARSE rx (R140). -/
  | uparse (rx : ByteString)
  /-- UPCMD (R141). -/
  | upcmd
  /-- SBUILD fc, d0, d1, d2 (R160). -/
  | sbuild (fc d0 d1 d2 : Byte)
  /-- SPARSE efc, rx (R161). -/
  | sparse (efc : Byte) (rx : ByteString)
  /-- SETADDR a (R180). -/
  | setaddr (a : Byte)
  /-- CLR (R181). -/
  | clr
  /-- OP 0x9, selects nothing (R182). -/
  | unassigned9
  /-- OP 0xA, selects nothing (R182). -/
  | unassignedA
  /-- OP 0xB, selects nothing (R182). -/
  | unassignedB
  /-- OP 0xC, selects nothing (R182). -/
  | unassignedC
  /-- OP 0xD, selects nothing (R182). -/
  | unassignedD
  /-- OP 0xE, selects nothing (R182). -/
  | unassignedE
  /-- OP 0xF, selects nothing (R182). -/
  | unassignedF
  /-- A serialized Write frame (R80, R81). LEN is `pay.length + 2` and is no operand. -/
  | cmdWr (seq : Byte) (cmd : Half) (pay : ByteString)
  /-- A serialized Read frame (R80, R81). -/
  | cmdRd (seq : Byte) (cmd : Half) (pay : ByteString)
  /-- A reply with flag bit 5 clear (R88, R89). LEN is `data.length`; `trailing` is ignored by the parser. -/
  | replyOk (flag seq : Byte) (data trailing : ByteString)
  /-- A reply with flag bit 5 set (R88, R89). -/
  | replyErr (flag seq : Byte) (data trailing : ByteString)
  /-- A WireChunk (R86) at its position in its frame: `bytes` is the frame's chunks up to and including it, joined
  in index order, so that its last 64 bytes are the chunk and it is chunk 0 when there are no others (R63, R108;
  log 7). -/
  | chunk (bytes : ByteString)
  /-- A serial frame (R92); header and tail are constants. -/
  | serial (addr fc d0 d1 d2 ck : Byte)
deriving DecidableEq, Repr

/-- The "format" column of spec/opcode_table.json: which bytes a port entry holds (log 2). -/
inductive Format where
  /-- OP: a request record of R96. -/
  | op
  /-- USB-COMMAND: a serialized command frame (R80). -/
  | usbCommand
  /-- USB-REPLY: a string received from the USB IN endpoint (R88). -/
  | usbReply
  /-- USB-WIRECHUNK: one 64-byte chunk (R86), behind the chunks of its frame that precede it (log 7). -/
  | usbWireChunk
  /-- SERIAL-FRAME: one serial window (R92). -/
  | serialFrame
deriving DecidableEq, Repr

/-- One thing the host has handed to the block: a format and its bytes, index 0 first. -/
structure Entry where
  format : Format
  bytes : ByteString
deriving DecidableEq, Repr

end Sys2Proof
end

