-- ==== Sys2Proof/Machine/Operands.lean ====
section
/-! DEFINITION. Operand forms and byte-order helpers: le16 and from_le16 (R8), buffer reads (R10), the
typed operands of a request (R99), the serial checksum (R93). -/

namespace Sys2Proof.Machine

/-- `le16(v)`: low byte first (R8, R52). -/
def le16 (v : Nat) : ByteString := [BitVec.ofNat 8 (v % 256), BitVec.ofNat 8 (v / 256)]

/-- `from_le16(b0, b1) = b0 + 256 * b1` (R8). -/
def fromLe16 (b0 b1 : Byte) : Half := BitVec.ofNat 16 (b0.toNat + 256 * b1.toNat)

/-- `zeros(k)` (R8). -/
def zeros (k : Nat) : ByteString := List.replicate k 0

/-- `MemRead(BUF, i, n)` (R10). -/
def memRead (buf : ByteString) (i n : Nat) : ByteString := (buf.drop i).take n

/-- Byte `i` of a buffer that an operation reads inside the used length; the reads of the operations stay
inside it in every state that meets `Safety.Inv`. -/
def bufByte (buf : ByteString) (i : Nat) : Byte := buf.getD i 0

/-- A `dir` operand as one byte of a request entry: 1 Read, 0 Write, anything else is no bit (R99, log 2). -/
def dirOperand (b : Byte) : Option Dir :=
  if b = 0 then some .write else if b = 1 then some .read else none

/-- The byte a `dir` operand is carried as. -/
def dirByte (d : Dir) : Byte := BitVec.ofNat 8 d.bit

/-- `K = ceil(T / 64)` (R87, R122). -/
def chunkCount (t : Nat) : Nat := (t + (Config.chunkBytes - 1)) / Config.chunkBytes

/-- LEN as the first chunk of a frame announces it, at the offset of R80 (R107, R108). -/
def announcedLength : ByteString → Nat
  | _ :: _ :: l0 :: l1 :: _ => (fromLe16 l0 l1).toNat
  | _ => 0

/-- The chunks of the frame that begins with these bytes: chunk 0 and `ceil((4 + LEN) / 64) - 1` more (R108). -/
def announcedChunks (frame : ByteString) : Nat := chunkCount (Config.replyHeaderBytes + announcedLength frame)

/-- How many chunks these bytes of a frame are; the last of them stands at the position one less (R63, R108). -/
def chunksJoined (frame : ByteString) : Nat := frame.length / Config.chunkBytes

/-- The last chunk of these bytes is the last one that chunk 0 of its frame announces (R108). -/
def completesFrame (frame : ByteString) : Bool := decide (announcedChunks frame ≤ chunksJoined frame)

/-- `CK = (FC + D0 + D1 + D2) mod 256` (R93). -/
def serialChecksum (fc d0 d1 d2 : Byte) : Byte :=
  BitVec.ofNat 8 ((fc.toNat + d0.toNat + d1.toNat + d2.toNat) % 256)

end Sys2Proof.Machine
end

