-- ==== Sys2Proof/Machine/Flags.lean ====
section
/-! DEFINITION. Flag computations: bit i of a byte (R7), the reply's error flag (R33, R89), the command
flag byte and its direction bit (R81, R141). -/

namespace Sys2Proof.Machine

/-- `b[i] = (b div 2^i) mod 2` (R7). -/
def bitOf (b : Byte) (i : Nat) : Nat := b.toNat / 2 ^ i % 2

/-- R.ERR, bit 5 of the flag byte (R33, R89, R140). -/
def errorFlag (flag : Byte) : Bool := bitOf flag Config.errBit == 1

/-- F.DIR of a parsed flag byte, its bit 7 (R141). -/
def directionOf (flag : Byte) : Dir := if bitOf flag Config.dirBit = 1 then .read else .write

/-- The FLAG byte of a command frame, `128 * F.DIR + 64` (R81, R121). -/
def commandFlag (d : Dir) : Byte := BitVec.ofNat 8 (2 ^ Config.dirBit * d.bit + Config.flagLow)

/-- The direction of a serialized frame's FLAG byte; no other value is ever serialized (R81, R101). -/
def serializedDirection (flag : Byte) : Option Dir :=
  if flag = commandFlag .write then some .write
  else if flag = commandFlag .read then some .read
  else none

end Sys2Proof.Machine
end

