-- ==== Sys2Proof/Machine/State.lean ====
section
/-! DEFINITION. The whole architectural state (R20), as plain data, and the state after reset (R38, R250). -/

namespace Sys2Proof.Machine

/-- The status of an operation (R220). -/
inductive Status where
  | ok
  | payloadTooLarge
  | shortReply
  | truncatedPayload
  | invalidResponse
  | lengthTooSmall
  | notReady
  | badRequest
deriving DecidableEq, Repr

/-- Group F, the CommandFrame (R25). -/
structure CommandFrame where
  dir : Dir
  seq : Byte
  cmd : Half
  n : Nat
  pay : ByteString
deriving DecidableEq, Repr

/-- Group SB, the serialized bytes (R27). -/
structure SerializedBytes where
  t : Nat
  b : ByteString
deriving DecidableEq, Repr

/-- Group CQ, the chunk queue (R28). -/
structure ChunkQueue where
  k : Nat
  c : List ByteString
deriving DecidableEq, Repr

/-- Group R, the ReplyFrame (R29). -/
structure ReplyFrame where
  flag : Byte
  err : Bool
  seq : Byte
  len : Half
  data : ByteString
deriving DecidableEq, Repr

/-- Group STX, the serial frame to transmit (R31). -/
structure SerialTransmit where
  b : ByteString
deriving DecidableEq, Repr

/-- Group SRX, the validated received serial frame (R32). -/
structure SerialReceive where
  addr : Byte
  fc : Byte
  d0 : Byte
  d1 : Byte
  d2 : Byte
  ck : Byte
deriving DecidableEq, Repr

/-- The six groups (R20). -/
inductive Group where
  | F
  | SB
  | CQ
  | R
  | STX
  | SRX
deriving DecidableEq, Repr

/-- The state of one instance (R20). A group is `none` while its valid bit is 0: its fields then hold no
value (R21, log 4). `pending` is the model's own: the requests the host has issued and the block has not
yet taken (log 3). -/
structure State where
  saddr : Byte
  status : Status
  f : Option CommandFrame
  sb : Option SerializedBytes
  cq : Option ChunkQueue
  r : Option ReplyFrame
  stx : Option SerialTransmit
  srx : Option SerialReceive
  pending : List Entry
deriving DecidableEq, Repr

/-- Reasons the machine stops with a fault: there is none. A failure is a returned status, never a trap,
and the block accepts the next request at once (R226 (e)). -/
inductive Fault where
deriving DecidableEq, Repr

/-- Reasons a step is refused. -/
inductive Refusal where
  /-- Raised by an arm of `exec` whose instruction has no meaning yet: none is left. Safe. -/
  | notModelled (mnemonic : String)
  /-- Raised by `step` when no request is left: the run has ended (R24). Safe. -/
  | noRequest
deriving DecidableEq, Repr

/-- The state after reset for a given SADDR_RESET (R6, R38). -/
def State.resetWith (saddrReset : Byte) : State where
  saddr := saddrReset
  status := .ok
  f := none
  sb := none
  cq := none
  r := none
  stx := none
  srx := none
  pending := []

/-- The state right after reset (R38, R250): SADDR holds the open parameter SADDR_RESET. -/
def State.reset : State := State.resetWith Config.saddrReset

end Sys2Proof.Machine
end

