-- ==== Sys2Proof/Machine/Ops.lean ====
section
/-! DEFINITION. The named operations over registers, valid bits and buffers; failure entry (R226); sequences
of operations (R110). -/

namespace Sys2Proof.Machine

/-- The code of a status, the 3 bits of STATUS (R35, R220). -/
def Status.code : Status → BitVec 3
  | .ok => 0
  | .payloadTooLarge => 1
  | .shortReply => 2
  | .truncatedPayload => 3
  | .invalidResponse => 4
  | .lengthTooSmall => 5
  | .notReady => 6
  | .badRequest => 7

/-- The later stages of a group's pipeline (R22): F, then SB, then CQ; the others stand alone. -/
def Group.laterStages : Group → List Group
  | .F => [.SB, .CQ]
  | .SB => [.CQ]
  | .CQ => []
  | .R => []
  | .STX => []
  | .SRX => []

/-- `G.V` (R21). -/
def State.valid (s : State) : Group → Bool
  | .F => s.f.isSome
  | .SB => s.sb.isSome
  | .CQ => s.cq.isSome
  | .R => s.r.isSome
  | .STX => s.stx.isSome
  | .SRX => s.srx.isSome

/-- `G.V <- 0`: the fields of G then hold no value (R21). -/
def State.invalidate (s : State) : Group → State
  | .F => { s with f := none }
  | .SB => { s with sb := none }
  | .CQ => { s with cq := none }
  | .R => { s with r := none }
  | .STX => { s with stx := none }
  | .SRX => { s with srx := none }

/-- The valid bits of a group and of the later stages of its pipeline to 0 (R22). -/
def State.invalidateFrom (s : State) (g : Group) : State :=
  g.laterStages.foldl State.invalidate (s.invalidate g)

/-- STATUS takes the code of the operation that ends (R35); a later one overwrites it (R227). -/
def State.finish (s : State) (st : Status) : State := { s with status := st }

/-- SADDR takes a value (R34). -/
def State.setSaddr (s : State) (a : Byte) : State := { s with saddr := a }

def State.putF (s : State) (f : CommandFrame) : State := { s with f := some f }
def State.putSB (s : State) (sb : SerializedBytes) : State := { s with sb := some sb }
def State.putCQ (s : State) (cq : ChunkQueue) : State := { s with cq := some cq }
def State.putR (s : State) (r : ReplyFrame) : State := { s with r := some r }
def State.putSTX (s : State) (stx : SerialTransmit) : State := { s with stx := some stx }
def State.putSRX (s : State) (srx : SerialReceive) : State := { s with srx := some srx }

/-- The two statuses that leave every group as it was (R226 (b)). -/
def Status.keepsGroups : Status → Bool
  | .notReady => true
  | .badRequest => true
  | .ok => false
  | .payloadTooLarge => false
  | .shortReply => false
  | .truncatedPayload => false
  | .invalidResponse => false
  | .lengthTooSmall => false

/-- FAILURE ENTRY (R226), the one way an operation that targets `g` fails: STATUS takes the code; for
NotReady and BadRequest nothing else changes; otherwise the target and its later stages become invalid.
Control goes nowhere. There is no return operation (R227). -/
def State.raise (s : State) (st : Status) (g : Group) : State :=
  if st.keepsGroups then s.finish st else (s.invalidateFrom g).finish st

/-- An untyped front end refuses a request: STATUS and nothing else (R99, R182). -/
def State.badRequest (s : State) : State := s.finish .badRequest

/-- A sequence of operations that stops at the first that does not end OK (R110). -/
def runOps : List (State → State) → State → State
  | [], s => s
  | op :: ops, s => if (op s).status = .ok then runOps ops (op s) else op s

/-- The five buffer spaces (R36, R50). -/
inductive Space where
  | fPay
  | sbB
  | cqC (k : Nat)
  | rData
  | stxB
deriving DecidableEq, Repr

/-- The used bytes of a space, none while its group is invalid (R21, R36). -/
def State.buffer (s : State) : Space → Option ByteString
  | .fPay => s.f.map (·.pay)
  | .sbB => s.sb.map (·.b)
  | .cqC k => s.cq.bind (·.c[k]?)
  | .rData => s.r.map (·.data)
  | .stxB => s.stx.map (·.b)

/-- Byte `i` of a space; a byte at or beyond the used length has no value (R36). -/
def State.readByte (s : State) (sp : Space) (i : Nat) : Option Byte := (s.buffer sp).bind (·[i]?)

end Sys2Proof.Machine
end

