-- ==== Sys2Proof/Machine/Serial.lean ====
section
/-! DEFINITION. The serial operations SBUILD, SPARSE (42_serial.md). -/

namespace Sys2Proof.Machine

/-- The ten wire bytes SBUILD makes (R92, R160). -/
def builtSerialFrame (saddr fc d0 d1 d2 : Byte) : ByteString :=
  [Config.serialHead0, Config.serialHead1, saddr, fc, d0, d1, d2, serialChecksum fc d0 d1 d2,
    Config.serialTail0, Config.serialTail1]

/-- The effect of SBUILD (R160). -/
def sbuild (fc d0 d1 d2 : Byte) (s : State) : State :=
  ((s.invalidateFrom .STX).putSTX ⟨builtSerialFrame s.saddr fc d0 d1 d2⟩).finish .ok

/-- The six tests of SPARSE (R161) and, when all pass, the frame's fields. The tests share one status, so
their order cannot be seen (R228). -/
def validSerialFields (saddr efc : Byte) : ByteString → Option SerialReceive
  | [h0, h1, addr, fc, d0, d1, d2, ck, t0, t1] =>
    if h0 ≠ Config.serialHead0 ∨ h1 ≠ Config.serialHead1 then none
    else if t0 ≠ Config.serialTail0 ∨ t1 ≠ Config.serialTail1 then none
    else if addr ≠ saddr then none
    else if fc ≠ efc then none
    else if ck ≠ serialChecksum fc d0 d1 d2 then none
    else some ⟨addr, fc, d0, d1, d2, ck⟩
  | _ => none

/-- The effect of SPARSE (R161). -/
def sparse (efc : Byte) (rx : ByteString) (s : State) : State :=
  match validSerialFields s.saddr efc rx with
  | none => s.raise .invalidResponse .SRX
  | some fields => ((s.invalidateFrom .SRX).putSRX fields).finish .ok

/-- SBUILD (R160). -/
def execSbuild (fc d0 d1 d2 : Byte) (s : State) : Host.Outcome State Fault Refusal :=
  .next (sbuild fc d0 d1 d2 s)

/-- SPARSE (R161). -/
def execSparse (efc : Byte) (rx : ByteString) (s : State) : Host.Outcome State Fault Refusal :=
  .next (sparse efc rx s)

end Sys2Proof.Machine
end

