-- ==== Sys2Proof/Machine/System.lean ====
section
/-! DEFINITION. SETADDR, CLR and the unassigned operation numbers (43_system.md). -/

namespace Sys2Proof.Machine

/-- The effect of SETADDR (R180). -/
def setaddr (a : Byte) (s : State) : State := (s.setSaddr a).finish .ok

/-- The effect of CLR (R181): the six valid bits; SADDR is kept. -/
def clr (s : State) : State :=
  ([Group.F, .SB, .CQ, .R, .STX, .SRX].foldl State.invalidate s).finish .ok

/-- SETADDR (R180). -/
def execSetaddr (a : Byte) (s : State) : Host.Outcome State Fault Refusal := .next (setaddr a s)

/-- CLR (R181). -/
def execClr (s : State) : Host.Outcome State Fault Refusal := .next (clr s)

/-- OP 0x9 selects nothing (R182). -/
def execUnassigned9 (s : State) : Host.Outcome State Fault Refusal := .next s.badRequest

/-- OP 0xA selects nothing (R182). -/
def execUnassignedA (s : State) : Host.Outcome State Fault Refusal := .next s.badRequest

/-- OP 0xB selects nothing (R182). -/
def execUnassignedB (s : State) : Host.Outcome State Fault Refusal := .next s.badRequest

/-- OP 0xC selects nothing (R182). -/
def execUnassignedC (s : State) : Host.Outcome State Fault Refusal := .next s.badRequest

/-- OP 0xD selects nothing (R182). -/
def execUnassignedD (s : State) : Host.Outcome State Fault Refusal := .next s.badRequest

/-- OP 0xE selects nothing (R182). -/
def execUnassignedE (s : State) : Host.Outcome State Fault Refusal := .next s.badRequest

/-- OP 0xF selects nothing (R182). -/
def execUnassignedF (s : State) : Host.Outcome State Fault Refusal := .next s.badRequest

end Sys2Proof.Machine
end

