-- ==== Sys2Proof/Machine/UsbRx.lean ====
section
/-! DEFINITION. The USB receive operations UPARSE, UPCMD (41_usb_rx.md). -/

namespace Sys2Proof.Machine

/-- The effect of UPARSE (R140); ShortReply is tested first (R228). -/
def uparse (rx : ByteString) (s : State) : State :=
  match rx with
  | flag :: seq :: l0 :: l1 :: rest =>
    if rest.length < (fromLe16 l0 l1).toNat then s.raise .truncatedPayload .R
    else
      ((s.invalidateFrom .R).putR
        { flag := flag, err := errorFlag flag, seq := seq, len := fromLe16 l0 l1,
          data := memRead rx Config.replyHeaderBytes (fromLe16 l0 l1).toNat }).finish .ok
  | _ => s.raise .shortReply .R

/-- The command view of a reply frame (R91, R141). -/
def commandView (r : ReplyFrame) : CommandFrame where
  dir := directionOf r.flag
  seq := r.seq
  cmd := fromLe16 (bufByte r.data 0) (bufByte r.data 1)
  n := r.len.toNat - Config.lenBias
  pay := memRead r.data Config.lenBias (r.len.toNat - Config.lenBias)

/-- The effect of UPCMD (R141), its tests in the order of R228. -/
def upcmd (s : State) : State :=
  match s.r with
  | none => s.raise .notReady .F
  | some r =>
    if r.len.toNat < Config.lenBias then s.raise .lengthTooSmall .F
    else if r.len.toNat - Config.lenBias + Config.headerBytes > Config.maxFrame then s.raise .payloadTooLarge .F
    else ((s.invalidateFrom .F).putF (commandView r)).finish .ok

/-- UPARSE (R140). -/
def execUparse (rx : ByteString) (s : State) : Host.Outcome State Fault Refusal := .next (uparse rx s)

/-- UPCMD (R141). -/
def execUpcmd (s : State) : Host.Outcome State Fault Refusal := .next (upcmd s)

end Sys2Proof.Machine
end

