-- ==== Sys2Proof/Machine/UsbTx.lean ====
section
/-! DEFINITION. The USB transmit operations UBUILD, USER, UCHUNK (40_usb_tx.md). -/

namespace Sys2Proof.Machine

/-- The effect of UBUILD (R120). -/
def ubuild (dir : Dir) (seq : Byte) (cmd : Half) (pay : ByteString) (s : State) : State :=
  if pay.length + Config.headerBytes > Config.maxFrame then s.raise .payloadTooLarge .F
  else ((s.invalidateFrom .F).putF ⟨dir, seq, cmd, pay.length, pay⟩).finish .ok

/-- The serialized bytes of a frame (R80, R121): header, then the F.N payload bytes. -/
def serializeFrame (f : CommandFrame) : SerializedBytes where
  t := f.n + Config.headerBytes
  b := commandFlag f.dir :: f.seq ::
    (le16 (f.n + Config.lenBias) ++ le16 f.cmd.toNat ++ memRead f.pay 0 f.n)

/-- The effect of USER (R121). -/
def user (s : State) : State :=
  match s.f with
  | none => s.raise .notReady .SB
  | some f => ((s.invalidateFrom .SB).putSB (serializeFrame f)).finish .ok

/-- Byte `j` of chunk `k` of a serialized frame (R86). -/
def chunkByte (sb : SerializedBytes) (k j : Nat) : Byte :=
  if Config.chunkBytes * k + j < sb.t then bufByte sb.b (Config.chunkBytes * k + j) else 0

/-- Chunk `k` of a serialized frame (R86). -/
def wireChunk (sb : SerializedBytes) (k : Nat) : ByteString :=
  (List.range Config.chunkBytes).map (chunkByte sb k)

/-- The chunk queue of a serialized frame, chunk 0 first (R122). -/
def cutChunks (sb : SerializedBytes) : ChunkQueue where
  k := chunkCount sb.t
  c := (List.range (chunkCount sb.t)).map (wireChunk sb)

/-- The effect of UCHUNK (R122). -/
def uchunk (s : State) : State :=
  match s.sb with
  | none => s.raise .notReady .CQ
  | some sb => ((s.invalidateFrom .CQ).putCQ (cutChunks sb)).finish .ok

/-- UBUILD (R120). -/
def execUbuild (dir : Dir) (seq : Byte) (cmd : Half) (pay : ByteString) (s : State) :
    Host.Outcome State Fault Refusal := .next (ubuild dir seq cmd pay s)

/-- USER (R121). -/
def execUser (s : State) : Host.Outcome State Fault Refusal := .next (user s)

/-- UCHUNK (R122). -/
def execUchunk (s : State) : Host.Outcome State Fault Refusal := .next (uchunk s)

end Sys2Proof.Machine
end

