-- ==== Sys2Proof/WellFormed.lean ====
section
/-! DEFINITION. Which terms of `Instr` are instructions: the lengths and flag bits the wire formats fix. -/

namespace Sys2Proof

/-- The payload of a serialized frame: `n + 6 <= 512` (R85). -/
def payloadFits (pay : ByteString) : Bool := decide (pay.length + Config.headerBytes ≤ Config.maxFrame)

/-- A reply's LEN is a u16 (R90). -/
def lengthFieldFits (data : ByteString) : Bool := decide (data.length < 65536)

/-- A WireChunk is exactly 64 bytes, as are those before it (R86), and its position is one of those that chunk 0
of its frame announces (R108). -/
def chunkFits (bytes : ByteString) : Bool :=
  decide (bytes.length % Config.chunkBytes = 0) && decide (1 ≤ Machine.chunksJoined bytes) &&
    decide (Machine.chunksJoined bytes ≤ Machine.announcedChunks bytes)

/-- The checks of one instruction. A request's operands are typed and of any length (R99), so requests
have none. -/
def Instr.wellFormed : Instr → Bool
  | .ubuild _ _ _ _ => true
  | .user => true
  | .uchunk => true
  | .uparse _ => true
  | .upcmd => true
  | .sbuild _ _ _ _ => true
  | .sparse _ _ => true
  | .setaddr _ => true
  | .clr => true
  | .unassigned9 => true
  | .unassignedA => true
  | .unassignedB => true
  | .unassignedC => true
  | .unassignedD => true
  | .unassignedE => true
  | .unassignedF => true
  | .cmdWr _ _ pay => payloadFits pay
  | .cmdRd _ _ pay => payloadFits pay
  | .replyOk flag _ data _ => !Machine.errorFlag flag && lengthFieldFits data
  | .replyErr flag _ data _ => Machine.errorFlag flag && lengthFieldFits data
  | .chunk bytes => chunkFits bytes
  | .serial _ _ _ _ _ _ => true

/-- An instruction's checks hold. -/
abbrev Instr.WellFormed (i : Instr) : Prop := i.wellFormed = true

end Sys2Proof
end

