-- ==== Sys2Proof/Decode.lean ====
section
/-! DEFINITION. From the bytes of a port entry to an instruction, total, rejecting by name; the encoder,
from the same layouts; and the host's numbering of a table row's bits. -/

namespace Sys2Proof

open Machine

/-- Why an entry is no instruction. -/
inductive DecodeError where
  /-- An OP entry with no byte. -/
  | noOpNumber
  /-- Bits 7 to 4 of the first byte of an OP entry are not 0: OP has 4 bits (R96). -/
  | opNotFourBits
  /-- An operand is missing, is of another type, or is one too many (R99, R182). -/
  | wrongOperands
  /-- FLAG is neither 0x40 nor 0xC0 (R101). -/
  | notCommandFlag
  /-- LEN is not `n + 2` (R82). -/
  | lengthMismatch
  /-- `n + 6 > 512` (R85). -/
  | payloadTooLong
  /-- Fewer bytes than the format's header. -/
  | shortFrame
  /-- Fewer than LEN bytes follow the reply header (R90). -/
  | truncatedFrame
  /-- Not 10 bytes with the header and tail constants (R92, R105). -/
  | notSerialFrame
  /-- Not a whole number of 64-byte chunks (R86), or a position that chunk 0 does not announce (R108). -/
  | notChunk
deriving DecidableEq, Repr

/-! ## Requests (R96, R98, R99; operand bytes: log 2) -/

def decodeUbuild : ByteString → Except DecodeError Instr
  | dir :: seq :: c0 :: c1 :: pay =>
    match dirOperand dir with
    | some d => .ok (.ubuild d seq (fromLe16 c0 c1) pay)
    | none => .error .wrongOperands
  | _ => .error .wrongOperands

def decodeSbuild : ByteString → Except DecodeError Instr
  | [fc, d0, d1, d2] => .ok (.sbuild fc d0 d1 d2)
  | _ => .error .wrongOperands

def decodeSparse : ByteString → Except DecodeError Instr
  | efc :: rx => .ok (.sparse efc rx)
  | _ => .error .wrongOperands

def decodeSetaddr : ByteString → Except DecodeError Instr
  | [a] => .ok (.setaddr a)
  | _ => .error .wrongOperands

/-- A request that takes no operand. -/
def decodeBare (i : Instr) : ByteString → Except DecodeError Instr
  | [] => .ok i
  | _ => .error .wrongOperands

/-- The operation map (R98, R100, R106). -/
def decodeOp (op : Nat) (operands : ByteString) : Except DecodeError Instr :=
  match op with
  | 0x0 => decodeUbuild operands
  | 0x1 => decodeBare .user operands
  | 0x2 => decodeBare .uchunk operands
  | 0x3 => .ok (.uparse operands)
  | 0x4 => decodeBare .upcmd operands
  | 0x5 => decodeSbuild operands
  | 0x6 => decodeSparse operands
  | 0x7 => decodeSetaddr operands
  | 0x8 => decodeBare .clr operands
  | 0x9 => decodeBare .unassigned9 operands
  | 0xA => decodeBare .unassignedA operands
  | 0xB => decodeBare .unassignedB operands
  | 0xC => decodeBare .unassignedC operands
  | 0xD => decodeBare .unassignedD operands
  | 0xE => decodeBare .unassignedE operands
  | 0xF => decodeBare .unassignedF operands
  | _ => .error .opNotFourBits

def decodeRequest : ByteString → Except DecodeError Instr
  | [] => .error .noOpNumber
  | op :: operands => decodeOp op.toNat operands

/-! ## Wire formats -/

/-- A serialized command frame (R80 to R85). -/
def decodeCommand : ByteString → Except DecodeError Instr
  | flag :: seq :: l0 :: l1 :: c0 :: c1 :: pay =>
    if payloadFits pay then
      if (fromLe16 l0 l1).toNat = pay.length + Config.lenBias then
        match serializedDirection flag with
        | some .write => .ok (.cmdWr seq (fromLe16 c0 c1) pay)
        | some .read => .ok (.cmdRd seq (fromLe16 c0 c1) pay)
        | none => .error .notCommandFlag
      else .error .lengthMismatch
    else .error .payloadTooLong
  | _ => .error .shortFrame

/-- A reply (R88 to R90). -/
def decodeReply : ByteString → Except DecodeError Instr
  | flag :: seq :: l0 :: l1 :: rest =>
    let len := (fromLe16 l0 l1).toNat
    if rest.length < len then .error .truncatedFrame
    else if errorFlag flag then .ok (.replyErr flag seq (rest.take len) (rest.drop len))
    else .ok (.replyOk flag seq (rest.take len) (rest.drop len))
  | _ => .error .shortFrame

/-- A WireChunk has no fixed bit and no header (R86): where it stands in its frame says which it is (R108). The
last 64 bytes of the entry are the chunk, those before it the frame's earlier chunks (log 7). -/
def decodeChunk (bytes : ByteString) : Except DecodeError Instr :=
  if chunkFits bytes then .ok (.chunk bytes) else .error .notChunk

/-- A serial frame (R92): match and mask fix bytes 0, 1, 8 and 9. -/
def decodeSerial : ByteString → Except DecodeError Instr
  | [h0, h1, addr, fc, d0, d1, d2, ck, t0, t1] =>
    if h0 = Config.serialHead0 ∧ h1 = Config.serialHead1 ∧ t0 = Config.serialTail0 ∧ t1 = Config.serialTail1 then
      .ok (.serial addr fc d0 d1 d2 ck)
    else .error .notSerialFrame
  | _ => .error .notSerialFrame

/-- The decoder, total on any entry. -/
def decode (e : Entry) : Except DecodeError Instr :=
  match e.format with
  | .op => decodeRequest e.bytes
  | .usbCommand => decodeCommand e.bytes
  | .usbReply => decodeReply e.bytes
  | .usbWireChunk => decodeChunk e.bytes
  | .serialFrame => decodeSerial e.bytes

/-! ## The encoder -/

/-- The bytes of a serialized command frame (R80). -/
def commandBytes (d : Dir) (seq : Byte) (cmd : Half) (pay : ByteString) : ByteString :=
  commandFlag d :: seq :: (le16 (pay.length + Config.lenBias) ++ le16 cmd.toNat ++ pay)

/-- The bytes of a reply and of what follows it (R88). -/
def replyBytes (flag seq : Byte) (data trailing : ByteString) : ByteString :=
  flag :: seq :: (le16 data.length ++ data ++ trailing)

/-- The bytes of a serial frame (R92). -/
def serialFrameBytes (addr fc d0 d1 d2 ck : Byte) : ByteString :=
  [Config.serialHead0, Config.serialHead1, addr, fc, d0, d1, d2, ck, Config.serialTail0, Config.serialTail1]

/-- The port entry of an instruction. -/
def encode : Instr → Entry
  | .ubuild dir seq cmd pay => ⟨.op, 0x00 :: dirByte dir :: seq :: (le16 cmd.toNat ++ pay)⟩
  | .user => ⟨.op, [0x01]⟩
  | .uchunk => ⟨.op, [0x02]⟩
  | .uparse rx => ⟨.op, 0x03 :: rx⟩
  | .upcmd => ⟨.op, [0x04]⟩
  | .sbuild fc d0 d1 d2 => ⟨.op, [0x05, fc, d0, d1, d2]⟩
  | .sparse efc rx => ⟨.op, 0x06 :: efc :: rx⟩
  | .setaddr a => ⟨.op, [0x07, a]⟩
  | .clr => ⟨.op, [0x08]⟩
  | .unassigned9 => ⟨.op, [0x09]⟩
  | .unassignedA => ⟨.op, [0x0A]⟩
  | .unassignedB => ⟨.op, [0x0B]⟩
  | .unassignedC => ⟨.op, [0x0C]⟩
  | .unassignedD => ⟨.op, [0x0D]⟩
  | .unassignedE => ⟨.op, [0x0E]⟩
  | .unassignedF => ⟨.op, [0x0F]⟩
  | .cmdWr seq cmd pay => ⟨.usbCommand, commandBytes .write seq cmd pay⟩
  | .cmdRd seq cmd pay => ⟨.usbCommand, commandBytes .read seq cmd pay⟩
  | .replyOk flag seq data trailing => ⟨.usbReply, replyBytes flag seq data trailing⟩
  | .replyErr flag seq data trailing => ⟨.usbReply, replyBytes flag seq data trailing⟩
  | .chunk bytes => ⟨.usbWireChunk, bytes⟩
  | .serial addr fc d0 d1 d2 ck => ⟨.serialFrame, serialFrameBytes addr fc d0 d1 d2 ck⟩

/-! ## The host's numbering of a row's bits (log 11) -/

/-- The first `n` bytes of a word, bits 7 to 0 first. -/
def wordBytes : Nat → Nat → ByteString
  | 0, _ => []
  | n + 1, w => BitVec.ofNat 8 (w % 256) :: wordBytes n (w / 256)

/-- How many operand bytes follow the OP byte of a request whose byte strings are empty. -/
def operandBytes : Nat → Nat
  | 0x0 => 4
  | 0x5 => 4
  | 0x6 => 1
  | 0x7 => 1
  | _ => 0

/-- Zero bytes up to a length; longer strings stay. -/
def padTo (n : Nat) (bytes : ByteString) : ByteString := bytes ++ zeros (n - bytes.length)

/-- A command row's bytes. LEN is no operand of the row but determined by the payload: a word whose LEN
bits are all 0, which no frame has, has it supplied, and operand bytes beyond the word are zeros. -/
def commandWordBytes (bytes : ByteString) : ByteString :=
  match padTo Config.headerBytes bytes with
  | flag :: seq :: l0 :: l1 :: rest =>
    if (fromLe16 l0 l1).toNat = 0 then flag :: seq :: (le16 rest.length ++ rest)
    else padTo (min ((fromLe16 l0 l1).toNat + 4) (Config.maxFrame + 1)) (flag :: seq :: l0 :: l1 :: rest)
  | short => short

/-- A reply row's bytes: the data bytes beyond the word are zeros. -/
def replyWordBytes (bytes : ByteString) : ByteString :=
  match padTo Config.replyHeaderBytes bytes with
  | flag :: seq :: l0 :: l1 :: rest =>
    padTo ((fromLe16 l0 l1).toNat + Config.replyHeaderBytes) (flag :: seq :: l0 :: l1 :: rest)
  | short => short

/-- The SERIAL row's match is written with byte 0 most significant (its note): the ten bytes are taken in the
order in which they begin with the header. -/
def serialWordBytes (bytes : ByteString) : ByteString :=
  if bytes.head? = some Config.serialHead0 then bytes else bytes.reverse

/-- The entry of a table row's word. The row's format is read from the word's length, and for words of
one byte from the byte: the five formats' first bytes overlap in the table (UBUILD and REPLY.OK are both
0x00), and an OP row wins. -/
def tableEntry (nbits w : Nat) : Entry :=
  let bytes := wordBytes ((nbits + 7) / 8) w
  let first := w % 256
  let command := first = (commandFlag .write).toNat ∨ first = (commandFlag .read).toNat
  if nbits ≤ 8 ∧ first < 16 then ⟨.op, padTo (1 + operandBytes first) bytes⟩
  else if nbits = 8 * Config.serialBytes then ⟨.serialFrame, serialWordBytes bytes⟩
  else if nbits = 8 * Config.chunkBytes then ⟨.usbWireChunk, bytes⟩
  else if command then ⟨.usbCommand, commandWordBytes bytes⟩
  else ⟨.usbReply, replyWordBytes bytes⟩

/-- The instruction the decoder reads from a table row's word. -/
def decodeTableWord (nbits w : Nat) : Option Instr :=
  match decode (tableEntry nbits w) with
  | .ok i => some i
  | .error _ => none

end Sys2Proof
end

