-- ==== Sys2Proof/Machine/Wire.lean ====
section
/-! DEFINITION. The wire-format rows of spec/opcode_table.json. No row of theirs is an operation of R100:
each stands for the sequence of operations that produces or consumes the bytes, as one step that stops at
the first operation that does not end OK, the way R110 reads its abbreviations (log 6, 7, 8). Also what
the front end does with an entry that is no instruction (log 10). -/

namespace Sys2Proof.Machine

/-- CMD.WR: the block produces the frame (R80, R120, R121). -/
def execCmdWr (seq : Byte) (cmd : Half) (pay : ByteString) (s : State) : Host.Outcome State Fault Refusal :=
  .next (runOps [ubuild .write seq cmd pay, user] s)

/-- CMD.RD: the block produces the frame (R80, R120, R121). -/
def execCmdRd (seq : Byte) (cmd : Half) (pay : ByteString) (s : State) : Host.Outcome State Fault Refusal :=
  .next (runOps [ubuild .read seq cmd pay, user] s)

/-- REPLY.OK: the block consumes the string (R88, R140). -/
def execReplyOk (flag seq : Byte) (data trailing : ByteString) (s : State) : Host.Outcome State Fault Refusal :=
  .next (uparse (replyBytes flag seq data trailing) s)

/-- REPLY.ERR: the status is still OK, R.ERR is 1 (R88, R140, R196). -/
def execReplyErr (flag seq : Byte) (data trailing : ByteString) (s : State) : Host.Outcome State Fault Refusal :=
  .next (uparse (replyBytes flag seq data trailing) s)

/-- A chunk is read by its position: until the frame is complete its bytes stay with the environment, in which
they are in flight (R37), and only STATUS is written; the last chunk completes the frame, which is parsed and
produced again (R108, R122, R143; log 7). -/
def readChunk (bytes : ByteString) (s : State) : State :=
  if completesFrame bytes then runOps [uparse bytes, upcmd, user, uchunk] s
  else s.finish .ok

/-- CHUNK: one chunk, read by its position (R86, R108; log 7). -/
def execChunk (bytes : ByteString) (s : State) : Host.Outcome State Fault Refusal :=
  .next (readChunk bytes s)

/-- SERIAL: the frame is validated against SADDR, its own function code and its checksum (R92, R161; log 8). -/
def execSerial (addr fc d0 d1 d2 ck : Byte) (s : State) : Host.Outcome State Fault Refusal :=
  .next (sparse fc (serialFrameBytes addr fc d0 d1 d2 ck) s)

/-- An entry that is no instruction: a malformed request or command frame or chunk is a BadRequest (R99,
R182); a received string goes to the unit that validates it, which names the failure (R140, R161, R231). -/
def rejectEntry (e : Entry) (s : State) : State :=
  match e.format with
  | .op => s.badRequest
  | .usbCommand => s.badRequest
  | .usbReply => uparse e.bytes s
  | .usbWireChunk => s.badRequest
  | .serialFrame => sparse 0 e.bytes s

end Sys2Proof.Machine
end

