-- ==== Sys2Proof/Machine/Dispatch.lean ====
section
/-! DEFINITION. One arm per row of spec/opcode_table.json. -/

namespace Sys2Proof.Machine

def exec (i : Instr) (s : State) : Host.Outcome State Fault Refusal :=
  match i with
  | .ubuild dir seq cmd pay => Sys2Proof.Machine.execUbuild dir seq cmd pay s
  | .user => Sys2Proof.Machine.execUser s
  | .uchunk => Sys2Proof.Machine.execUchunk s
  | .uparse rx => Sys2Proof.Machine.execUparse rx s
  | .upcmd => Sys2Proof.Machine.execUpcmd s
  | .sbuild fc d0 d1 d2 => Sys2Proof.Machine.execSbuild fc d0 d1 d2 s
  | .sparse efc rx => Sys2Proof.Machine.execSparse efc rx s
  | .setaddr a => Sys2Proof.Machine.execSetaddr a s
  | .clr => Sys2Proof.Machine.execClr s
  | .unassigned9 => Sys2Proof.Machine.execUnassigned9 s
  | .unassignedA => Sys2Proof.Machine.execUnassignedA s
  | .unassignedB => Sys2Proof.Machine.execUnassignedB s
  | .unassignedC => Sys2Proof.Machine.execUnassignedC s
  | .unassignedD => Sys2Proof.Machine.execUnassignedD s
  | .unassignedE => Sys2Proof.Machine.execUnassignedE s
  | .unassignedF => Sys2Proof.Machine.execUnassignedF s
  | .cmdWr seq cmd pay => Sys2Proof.Machine.execCmdWr seq cmd pay s
  | .cmdRd seq cmd pay => Sys2Proof.Machine.execCmdRd seq cmd pay s
  | .replyOk flag seq data trailing => Sys2Proof.Machine.execReplyOk flag seq data trailing s
  | .replyErr flag seq data trailing => Sys2Proof.Machine.execReplyErr flag seq data trailing s
  | .chunk bytes => Sys2Proof.Machine.execChunk bytes s
  | .serial addr fc d0 d1 d2 ck => Sys2Proof.Machine.execSerial addr fc d0 d1 d2 ck s

end Sys2Proof.Machine
end

