-- ==== Sys2Proof/Machine/Step.lean ====
section
/-! DEFINITION. One step: the block takes the oldest pending request and executes it to completion (R24,
R62, R65). -/

namespace Sys2Proof.Machine

/-- An accepted entry: the instruction it decodes to, or the front end's answer (R99, R182). -/
def serveEntry (e : Entry) (s : State) : Host.Outcome State Fault Refusal :=
  match decode e with
  | .ok i => exec i s
  | .error _ => .next (rejectEntry e s)

/-- One step. With no request left the run has ended (R24, log 3). -/
def step (s : State) : Host.Outcome State Fault Refusal :=
  match s.pending with
  | [] => .refused .noRequest
  | e :: rest => serveEntry e { s with pending := rest }

/-- The entry of a table row's word is the next request. -/
def State.withFetchWord (s : State) (nbits w : Nat) : State :=
  { s with pending := tableEntry nbits w :: s.pending }

end Sys2Proof.Machine
end

