-- ==== Sys2Proof/Machine/Instances.lean ====
section
/-! DEFINITION. Several instances, one per device, that share no state (R200, R234), and are reset
each on its own. -/

namespace Sys2Proof.Machine

/-- The instances of a system, each with its own whole state (R234). -/
abbrev System := List State

/-- Instance `k` takes a step and the others stay as they are (R234); an instance that does not exist
takes none. -/
def stepInstance (k : Nat) (sys : System) : Host.Outcome System Fault Refusal :=
  match sys[k]? with
  | none => .refused .noRequest
  | some s =>
    match step s with
    | .next t => .next (sys.set k t)
    | .fault q => .fault q
    | .refused q => .refused q

/-- A system right after reset, each instance with its own SADDR_RESET (R6, R234). -/
def resetSystem (addrs : List Byte) : System := addrs.map State.resetWith

/-- The environment resets instance `k`, whose SADDR_RESET is `addr`, and no other (R234, R251). -/
def resetInstance (k : Nat) (addr : Byte) (sys : System) : System := sys.set k (State.resetWith addr)

end Sys2Proof.Machine
end

