-- ==== Sys2Proof/Machine/Pseudo.lean ====
section
/-! DEFINITION. The pseudo-operations USEND, UWRITE, UREAD, URTRIP (R110), the reader of chunks (R108) and runs
of requests (R24). -/

namespace Sys2Proof.Machine

/-- USEND dir, seq, cmd, pay (R110). -/
def usend (dir : Dir) (seq : Byte) (cmd : Half) (pay : ByteString) : List Instr :=
  [.ubuild dir seq cmd pay, .user, .uchunk]

/-- UWRITE seq, cmd, pay (R110). -/
def uwrite (seq : Byte) (cmd : Half) (pay : ByteString) : List Instr := usend .write seq cmd pay

/-- UREAD seq, cmd, pay (R110). -/
def uread (seq : Byte) (cmd : Half) (pay : ByteString) : List Instr := usend .read seq cmd pay

/-- URTRIP, of the bytes the last USER returned (R110). -/
def urtrip (serialized : ByteString) : List Instr := [.uparse serialized, .upcmd]

/-- A reader of chunks in the environment: it places each chunk by position, and after the chunk that completes a
frame the next one is chunk 0 again (R63, R108). `before` is what it has of the frame it is reading. -/
def chunkRequests : ByteString → List ByteString → List Instr
  | _, [] => []
  | before, w :: ws =>
    .chunk (before ++ w) :: chunkRequests (if completesFrame (before ++ w) then [] else before ++ w) ws

/-- A pseudo-operation: the sequence stops at the first request that does not end OK (R110). -/
def runPseudo : List Instr → State → Host.Outcome State Fault Refusal
  | [], s => .next s
  | i :: is, s =>
    match exec i s with
    | .next t => if t.status = .ok then runPseudo is t else .next t
    | .fault q => .fault q
    | .refused q => .refused q

/-- A run: every request is executed, whatever the status of the one before it (R24, R227). -/
def runRequests : List Instr → State → Host.Outcome State Fault Refusal
  | [], s => .next s
  | i :: is, s =>
    match exec i s with
    | .next t => runRequests is t
    | .fault q => .fault q
    | .refused q => .refused q

end Sys2Proof.Machine
end

