-- ==== Sys2Proof/Machine/Response.lean ====
section
/-! DEFINITION. What the host sees: the response to a request (R39, R97), a function of the request and of
the state after it (log 5). -/

namespace Sys2Proof.Machine

/-- The value of a response: a copy of the group the operation wrote (R97). -/
inductive Value where
  | frame (f : CommandFrame)
  | serialized (sb : SerializedBytes)
  | chunks (cq : ChunkQueue)
  | reply (r : ReplyFrame)
  | serialSent (stx : SerialTransmit)
  | serialReceived (srx : SerialReceive)
deriving DecidableEq, Repr

/-- A response, STATUS and a value that is present only when STATUS is OK (R97). -/
structure Response where
  status : Status
  value : Option Value
deriving DecidableEq, Repr

/-- A copy of a group, none while it is invalid. -/
def State.groupValue (s : State) : Group → Option Value
  | .F => s.f.map .frame
  | .SB => s.sb.map .serialized
  | .CQ => s.cq.map .chunks
  | .R => s.r.map .reply
  | .STX => s.stx.map .serialSent
  | .SRX => s.srx.map .serialReceived

/-- The group a request's response copies (R97); for a wire row, that of its last operation (log 6); a chunk that
leaves its frame incomplete writes none (log 7). -/
def writtenGroup : Instr → Option Group
  | .ubuild _ _ _ _ => some .F
  | .user => some .SB
  | .uchunk => some .CQ
  | .uparse _ => some .R
  | .upcmd => some .F
  | .sbuild _ _ _ _ => some .STX
  | .sparse _ _ => some .SRX
  | .setaddr _ => none
  | .clr => none
  | .unassigned9 => none
  | .unassignedA => none
  | .unassignedB => none
  | .unassignedC => none
  | .unassignedD => none
  | .unassignedE => none
  | .unassignedF => none
  | .cmdWr _ _ _ => some .SB
  | .cmdRd _ _ _ => some .SB
  | .replyOk _ _ _ _ => some .R
  | .replyErr _ _ _ _ => some .R
  | .chunk bytes => if completesFrame bytes then some .CQ else none
  | .serial _ _ _ _ _ _ => some .SRX

/-- The response to request `i` that left the block in state `t` (R97). -/
def responseOf (i : Instr) (t : State) : Response where
  status := t.status
  value := if t.status = .ok then (writtenGroup i).bind t.groupValue else none

/-- The response to the oldest pending entry. An entry that is no instruction carries no value. -/
def stepResponse (s : State) : Option Response :=
  match s.pending, step s with
  | e :: _, .next t =>
    match decode e with
    | .ok i => some (responseOf i t)
    | .error _ => some ⟨t.status, none⟩
  | _, _ => none

end Sys2Proof.Machine
end

