-- ==== Sys2Proof/Safety.lean ====
section
/-! DEFINITION. What a sound state is: the invariants the spec gives the groups (R22, R26 to R32), said
through the wire layouts and not through the functions that make them; which groups a request may write. -/

namespace Sys2Proof.Safety

open Machine

/-- `[flag]` of a frame of direction `d`: 0xC0 for a Read, 0x40 for a Write (R81). -/
def flagOf : Dir → Byte
  | .read => 0xC0
  | .write => 0x40

/-- A valid F: F.PAY holds F.N bytes and `F.N + 6 <= 512` (R25, R26). -/
structure FrameOk (f : CommandFrame) : Prop where
  length : f.pay.length = f.n
  fits : f.n + 6 ≤ 512

/-- The 16-bit field at offset `i` of `b` holds `v`, low byte first (R52). -/
def FieldAt (b : ByteString) (i v : Nat) : Prop :=
  ∃ lo hi : Byte, b[i]? = some lo ∧ b[i + 1]? = some hi ∧ lo.toNat + 256 * hi.toNat = v

/-- SB holds the serialized bytes of `f`: the layout of R80, offset by offset. -/
structure SerializedOf (f : CommandFrame) (sb : SerializedBytes) : Prop where
  total : sb.t = f.n + 6
  length : sb.b.length = sb.t
  flag : sb.b[0]? = some (flagOf f.dir)
  seq : sb.b[1]? = some f.seq
  len : FieldAt sb.b 2 (f.n + 2)
  cmd : FieldAt sb.b 4 f.cmd.toNat
  payload : ∀ j, j < f.n → sb.b[6 + j]? = f.pay[j]?

/-- CQ holds the chunks of `sb`: `ceil(T / 64)` of 64 bytes, zero-padded (R86, R87). -/
structure ChunksOf (sb : SerializedBytes) (cq : ChunkQueue) : Prop where
  count : cq.k = (sb.t + 63) / 64
  length : cq.c.length = cq.k
  bytes : ∀ k, k < cq.k → ∃ w, cq.c[k]? = some w ∧ w.length = 64 ∧
    ∀ j, j < 64 → w[j]? = if 64 * k + j < sb.t then sb.b[64 * k + j]? else some 0

/-- A valid R: exactly R.LEN data bytes, and R.ERR is bit 5 of R.FLAG (R29, R30). -/
structure ReplyOk (r : ReplyFrame) : Prop where
  length : r.data.length = r.len.toNat
  err : r.err = r.flag.getLsbD 5

/-- `CK = (FC + D0 + D1 + D2) mod 256` (R93). -/
def ChecksumOk (fc d0 d1 d2 ck : Byte) : Prop :=
  ck.toNat = (fc.toNat + d0.toNat + d1.toNat + d2.toNat) % 256

/-- The ten bytes of a serial frame (R92). -/
def serialWire (addr fc d0 d1 d2 ck : Byte) : ByteString :=
  [0x55, 0xAA, addr, fc, d0, d1, d2, ck, 0xDA, 0xC3]

/-- A valid STX holds a serial frame with its checksum (R31, R92, R93). -/
def TransmitOk (x : SerialTransmit) : Prop :=
  ∃ addr fc d0 d1 d2 ck, x.b = serialWire addr fc d0 d1 d2 ck ∧ ChecksumOk fc d0 d1 d2 ck

/-- A valid SRX holds a checksum equal to the recomputed one (R32). -/
def ReceiveOk (x : SerialReceive) : Prop := ChecksumOk x.fc x.d0 x.d1 x.d2 x.ck

/-- How many more chunks a reader expects after a chunk 0 with these LEN bytes: `ceil((4 + LEN) / 64) - 1`
(R108). -/
def moreChunks (l0 l1 : Byte) : Nat := (4 + (l0.toNat + 256 * l1.toNat) + 63) / 64 - 1

/-- The invariant of the block. The second and third clause are R22: a later stage never holds bytes of an
older frame than an earlier stage. -/
structure Inv (s : State) : Prop where
  frame : ∀ f, s.f = some f → FrameOk f
  serialized : ∀ sb, s.sb = some sb → ∃ f, s.f = some f ∧ SerializedOf f sb
  chunks : ∀ cq, s.cq = some cq → ∃ sb, s.sb = some sb ∧ ChunksOf sb cq
  reply : ∀ r, s.r = some r → ReplyOk r
  transmit : ∀ x, s.stx = some x → TransmitOk x
  receive : ∀ x, s.srx = some x → ReceiveOk x

/-- The groups whose fields or valid bit a request may write: the groups of R20's "written by" column and
the later stages of R22. -/
def writes : Instr → List Group
  | .ubuild _ _ _ _ => [.F, .SB, .CQ]
  | .user => [.SB, .CQ]
  | .uchunk => [.CQ]
  | .uparse _ => [.R]
  | .upcmd => [.F, .SB, .CQ]
  | .sbuild _ _ _ _ => [.STX]
  | .sparse _ _ => [.SRX]
  | .setaddr _ => []
  | .clr => [.F, .SB, .CQ, .R, .STX, .SRX]
  | .unassigned9 => []
  | .unassignedA => []
  | .unassignedB => []
  | .unassignedC => []
  | .unassignedD => []
  | .unassignedE => []
  | .unassignedF => []
  | .cmdWr _ _ _ => [.F, .SB, .CQ]
  | .cmdRd _ _ _ => [.F, .SB, .CQ]
  | .replyOk _ _ _ _ => [.R]
  | .replyErr _ _ _ _ => [.R]
  | .chunk _ => [.R, .F, .SB, .CQ]
  | .serial _ _ _ _ _ _ => [.SRX]

/-- The group a buffer space is private to (R36). -/
def spaceGroup : Space → Group
  | .fPay => .F
  | .sbB => .SB
  | .cqC _ => .CQ
  | .rData => .R
  | .stxB => .STX

/-- The requests of R100 and R106; the others are wire-format rows. -/
def isOperation : Instr → Bool
  | .ubuild _ _ _ _ => true
  | .user => true
  | .uchunk => true
  | .uparse _ => true
  | .upcmd => true
  | .sbuild _ _ _ _ => true
  | .sparse _ _ => true
  | .setaddr _ => true
  | .clr => true
  | .unassigned9 => true
  | .unassignedA => true
  | .unassignedB => true
  | .unassignedC => true
  | .unassignedD => true
  | .unassignedE => true
  | .unassignedF => true
  | .cmdWr _ _ _ => false
  | .cmdRd _ _ _ => false
  | .replyOk _ _ _ _ => false
  | .replyErr _ _ _ _ => false
  | .chunk _ => false
  | .serial _ _ _ _ _ _ => false

/-- The seven requests of R106. -/
def unassigned : List Instr :=
  [.unassigned9, .unassignedA, .unassignedB, .unassignedC, .unassignedD, .unassignedE, .unassignedF]

/-- The USB operations (R164). -/
def isUsb : Instr → Bool
  | .ubuild _ _ _ _ => true
  | .user => true
  | .uchunk => true
  | .uparse _ => true
  | .upcmd => true
  | .sbuild _ _ _ _ => false
  | .sparse _ _ => false
  | .setaddr _ => false
  | .clr => false
  | .unassigned9 => false
  | .unassignedA => false
  | .unassignedB => false
  | .unassignedC => false
  | .unassignedD => false
  | .unassignedE => false
  | .unassignedF => false
  | .cmdWr _ _ _ => false
  | .cmdRd _ _ _ => false
  | .replyOk _ _ _ _ => false
  | .replyErr _ _ _ _ => false
  | .chunk _ => false
  | .serial _ _ _ _ _ _ => false

/-- The serial operations (R164). -/
def isSerial : Instr → Bool
  | .ubuild _ _ _ _ => false
  | .user => false
  | .uchunk => false
  | .uparse _ => false
  | .upcmd => false
  | .sbuild _ _ _ _ => true
  | .sparse _ _ => true
  | .setaddr _ => false
  | .clr => false
  | .unassigned9 => false
  | .unassignedA => false
  | .unassignedB => false
  | .unassignedC => false
  | .unassignedD => false
  | .unassignedE => false
  | .unassignedF => false
  | .cmdWr _ _ _ => false
  | .cmdRd _ _ _ => false
  | .replyOk _ _ _ _ => false
  | .replyErr _ _ _ _ => false
  | .chunk _ => false
  | .serial _ _ _ _ _ _ => false

/-- The requests that make a frame in F when they end OK: UBUILD and UPCMD (R26, R125), and the wire rows that
stand for one of them (log 6, 7), a chunk only when it completes its frame. -/
def makesFrame : Instr → Bool
  | .ubuild _ _ _ _ => true
  | .user => false
  | .uchunk => false
  | .uparse _ => false
  | .upcmd => true
  | .sbuild _ _ _ _ => false
  | .sparse _ _ => false
  | .setaddr _ => false
  | .clr => false
  | .unassigned9 => false
  | .unassignedA => false
  | .unassignedB => false
  | .unassignedC => false
  | .unassignedD => false
  | .unassignedE => false
  | .unassignedF => false
  | .cmdWr _ _ _ => true
  | .cmdRd _ _ _ => true
  | .replyOk _ _ _ _ => false
  | .replyErr _ _ _ _ => false
  | .chunk bytes => completesFrame bytes
  | .serial _ _ _ _ _ _ => false

/-- No request of the run that makes a frame ends OK (R125). -/
def noNewFrame : List Instr → State → Prop
  | [], _ => True
  | i :: is, s => ∀ t, exec i s = .next t → (makesFrame i = true → t.status ≠ .ok) ∧ noNewFrame is t

end Sys2Proof.Safety
end

