-- ==== Sys2Proof/Certificates/Slice0/Obligations.lean ====
section
/-! DEFINITION. The statements for the provers. Each docstring names the rule of spec/ it formalises or, where
it rests on a choice of the model, the log entry. -/

open Sys2Proof Sys2Proof.Machine Sys2Proof.Safety

/-! ## What each operation does -/

/-- R120: UBUILD writes F from its operands, or fails exactly when `n + 6 > 512`; either way SB and CQ become
invalid and nothing else changes. -/
def Obligations.UbuildBuildsOrRejects : Prop :=
  ∀ (dir : Dir) (seq : Byte) (cmd : Half) (pay : ByteString) (s : State),
    (pay.length + 6 ≤ 512 → exec (.ubuild dir seq cmd pay) s =
      .next { s with f := some ⟨dir, seq, cmd, pay.length, pay⟩, sb := none, cq := none, status := .ok }) ∧
    (512 < pay.length + 6 → exec (.ubuild dir seq cmd pay) s =
      .next { s with f := none, sb := none, cq := none, status := .payloadTooLarge })

/-- R121 with the layout of R80: USER serializes a valid F into SB and invalidates CQ; with F invalid it is
NotReady and only STATUS changes. -/
def Obligations.UserSerializesFrame : Prop :=
  ∀ s : State,
    (s.f = none → exec .user s = .next { s with status := .notReady }) ∧
    (∀ f, s.f = some f → FrameOk f →
      ∃ sb, exec .user s = .next { s with sb := some sb, cq := none, status := .ok } ∧ SerializedOf f sb)

/-- R122 with R86: UCHUNK cuts a valid SB into `ceil(T / 64)` chunks of 64 bytes, zero-padded; with SB invalid
it is NotReady and only STATUS changes. -/
def Obligations.UchunkCutsSerializedBytes : Prop :=
  ∀ s : State,
    (s.sb = none → exec .uchunk s = .next { s with status := .notReady }) ∧
    (∀ sb, s.sb = some sb → sb.b.length = sb.t →
      ∃ cq, exec .uchunk s = .next { s with cq := some cq, status := .ok } ∧ ChunksOf sb cq)

/-- R140: the three outcomes of UPARSE. -/
def Obligations.UparseParsesReply : Prop :=
  ∀ (rx : ByteString) (s : State),
    (rx.length < 4 → exec (.uparse rx) s = .next { s with r := none, status := .shortReply }) ∧
    (∀ (b0 b1 b2 b3 : Byte) (rest : ByteString), rx = b0 :: b1 :: b2 :: b3 :: rest →
      (rest.length < b2.toNat + 256 * b3.toNat →
        exec (.uparse rx) s = .next { s with r := none, status := .truncatedPayload }) ∧
      (b2.toNat + 256 * b3.toNat ≤ rest.length →
        ∃ r, exec (.uparse rx) s = .next { s with r := some r, status := .ok } ∧
          r.flag = b0 ∧ r.err = b0.getLsbD 5 ∧ r.seq = b1 ∧ r.len.toNat = b2.toNat + 256 * b3.toNat ∧
          r.data = rest.take (b2.toNat + 256 * b3.toNat)))

/-- R141: the four outcomes of UPCMD on a sound R. -/
def Obligations.UpcmdGivesCommandView : Prop :=
  ∀ s : State,
    (s.r = none → exec .upcmd s = .next { s with status := .notReady }) ∧
    (∀ r, s.r = some r → ReplyOk r →
      (r.len.toNat < 2 → exec .upcmd s =
        .next { s with f := none, sb := none, cq := none, status := .lengthTooSmall }) ∧
      (512 < r.len.toNat - 2 + 6 → exec .upcmd s =
        .next { s with f := none, sb := none, cq := none, status := .payloadTooLarge }) ∧
      (2 ≤ r.len.toNat → r.len.toNat - 2 + 6 ≤ 512 →
        ∃ f, exec .upcmd s = .next { s with f := some f, sb := none, cq := none, status := .ok } ∧
          f.dir = (if r.flag.getLsbD 7 then .read else .write) ∧ f.seq = r.seq ∧
          FieldAt r.data 0 f.cmd.toNat ∧ f.n = r.len.toNat - 2 ∧ f.pay = r.data.drop 2))

/-- R160 with the checksum of R93: SBUILD always ends OK and writes the ten bytes of the frame. -/
def Obligations.SbuildMakesSerialFrame : Prop :=
  ∀ (fc d0 d1 d2 : Byte) (s : State), ∃ ck, ChecksumOk fc d0 d1 d2 ck ∧
    exec (.sbuild fc d0 d1 d2) s =
      .next { s with stx := some ⟨[0x55, 0xAA, s.saddr, fc, d0, d1, d2, ck, 0xDA, 0xC3]⟩, status := .ok }

/-- R161, R224: SPARSE accepts exactly the ten-byte windows with the header, the tail, SADDR, the expected
function code and their own checksum; every other string is InvalidResponse. -/
def Obligations.SparseValidatesWindow : Prop :=
  ∀ (efc : Byte) (s : State),
    (∀ d0 d1 d2 ck : Byte, ChecksumOk efc d0 d1 d2 ck →
      exec (.sparse efc (serialWire s.saddr efc d0 d1 d2 ck)) s =
        .next { s with srx := some ⟨s.saddr, efc, d0, d1, d2, ck⟩, status := .ok }) ∧
    (∀ rx : ByteString,
      (∀ d0 d1 d2 ck : Byte, rx = serialWire s.saddr efc d0 d1 d2 ck → ¬ ChecksumOk efc d0 d1 d2 ck) →
      exec (.sparse efc rx) s = .next { s with srx := none, status := .invalidResponse })

/-- R180. -/
def Obligations.SetaddrWritesAddress : Prop :=
  ∀ (a : Byte) (s : State), exec (.setaddr a) s = .next { s with saddr := a, status := .ok }

/-- R181. -/
def Obligations.ClrDropsEveryResult : Prop :=
  ∀ s : State, exec .clr s = .next { s with
    f := none, sb := none, cq := none, r := none, stx := none, srx := none, status := .ok }

/-- R106: a request whose OP selects nothing ends with BadRequest and writes STATUS and nothing else. -/
def Obligations.UnassignedNumbersAreBadRequest : Prop :=
  ∀ i ∈ unassigned, ∀ s : State, exec i s = .next { s with status := .badRequest }

/-- R182 and R99, with the byte layout of requests that is the model's choice (log 2): a request that does not
decode writes STATUS and nothing else. Where its operands are not of the types of R99 the rules say BadRequest; for an
entry with no operation number, or with one of more than 4 bits, BadRequest is the model's choice (log 10). -/
def Obligations.MalformedRequestsAreBadRequest : Prop :=
  ∀ (bytes : ByteString) (rest : List Entry) (s : State), (∀ i, decode ⟨.op, bytes⟩ ≠ .ok i) →
    step { s with pending := ⟨.op, bytes⟩ :: rest } = .next { s with status := .badRequest, pending := rest }

/-- The model's choice of log 10: an entry of a wire format that does not decode. A command frame or a chunk is a
BadRequest; a received string goes to UPARSE, which names the failure of R140, and a serial window to SPARSE, which
names that of R161. -/
def Obligations.MalformedWireEntriesAreAnswered : Prop :=
  ∀ (bytes : ByteString) (rest : List Entry) (s : State),
    ((∀ i, decode ⟨.usbCommand, bytes⟩ ≠ .ok i) → step { s with pending := ⟨.usbCommand, bytes⟩ :: rest } =
      .next { s with status := .badRequest, pending := rest }) ∧
    ((∀ i, decode ⟨.usbWireChunk, bytes⟩ ≠ .ok i) → step { s with pending := ⟨.usbWireChunk, bytes⟩ :: rest } =
      .next { s with status := .badRequest, pending := rest }) ∧
    ((∀ i, decode ⟨.usbReply, bytes⟩ ≠ .ok i) → step { s with pending := ⟨.usbReply, bytes⟩ :: rest } =
      .next { s with
        r := none, status := if bytes.length < 4 then .shortReply else .truncatedPayload, pending := rest }) ∧
    ((∀ i, decode ⟨.serialFrame, bytes⟩ ≠ .ok i) → step { s with pending := ⟨.serialFrame, bytes⟩ :: rest } =
      .next { s with srx := none, status := .invalidResponse, pending := rest })

/-! ## The wire-format rows (the model's choices of log 6, 7 and 8) -/

/-- Log 6, with R80, R120 and R121: CMD.WR and CMD.RD leave the frame in F and its bytes, those of the row's
encoding, in SB; a payload that fits no frame is PayloadTooLarge. -/
def Obligations.CommandRowsProduceTheirFrame : Prop :=
  ∀ (seq : Byte) (cmd : Half) (pay : ByteString) (s : State),
    (pay.length + 6 ≤ 512 →
      exec (.cmdWr seq cmd pay) s = .next { s with
        f := some ⟨.write, seq, cmd, pay.length, pay⟩
        sb := some ⟨pay.length + 6, (encode (.cmdWr seq cmd pay)).bytes⟩, cq := none, status := .ok } ∧
      exec (.cmdRd seq cmd pay) s = .next { s with
        f := some ⟨.read, seq, cmd, pay.length, pay⟩
        sb := some ⟨pay.length + 6, (encode (.cmdRd seq cmd pay)).bytes⟩, cq := none, status := .ok }) ∧
    (512 < pay.length + 6 →
      exec (.cmdWr seq cmd pay) s =
        .next { s with f := none, sb := none, cq := none, status := .payloadTooLarge } ∧
      exec (.cmdRd seq cmd pay) s =
        .next { s with f := none, sb := none, cq := none, status := .payloadTooLarge })

/-- Log 6, with R88, R89 and R140: REPLY.OK and REPLY.ERR leave their fields in R, R.ERR being 0 and 1, with
status OK whatever follows the data. -/
def Obligations.ReplyRowsAreParsed : Prop :=
  ∀ (flag seq : Byte) (data trailing : ByteString) (s : State), data.length < 65536 →
    (flag.getLsbD 5 = false → exec (.replyOk flag seq data trailing) s =
      .next { s with r := some ⟨flag, false, seq, BitVec.ofNat 16 data.length, data⟩, status := .ok }) ∧
    (flag.getLsbD 5 = true → exec (.replyErr flag seq data trailing) s =
      .next { s with r := some ⟨flag, true, seq, BitVec.ofNat 16 data.length, data⟩, status := .ok })

/-- Log 7, with R86, R122, R142 and R145: the one chunk of a command frame of at most 58 payload bytes, at
position 0, is read back and produced again, byte for byte. -/
def Obligations.SingleChunkIsReproduced : Prop :=
  ∀ (dir : Dir) (seq : Byte) (cmd : Half) (pay : ByteString) (s : State), pay.length ≤ 58 →
    ∀ frame : ByteString, frame.length = pay.length + 6 →
      SerializedOf ⟨dir, seq, cmd, pay.length, pay⟩ ⟨pay.length + 6, frame⟩ →
    ∃ r, exec (.chunk (frame ++ List.replicate (58 - pay.length) 0)) s = .next { s with
        r := some r
        f := some ⟨dir, seq, cmd, pay.length, pay⟩
        sb := some ⟨pay.length + 6, frame⟩
        cq := some ⟨1, [frame ++ List.replicate (58 - pay.length) 0]⟩
        status := .ok } ∧
      ReplyOk r ∧ r.flag = flagOf dir ∧ r.seq = seq ∧ r.len.toNat = pay.length + 2 ∧ r.data = frame.drop 4

/-- Log 7, with R108 (which the spec derives from its other rules): a chunk is read by its position, `bytes`
being the chunks of its frame up to and including it, joined. Chunk 0 announces LEN; before the
`ceil((4 + LEN) / 64) - 1` chunks that follow it have come nothing changes but STATUS; the last of them has the joined
chunks parsed, viewed, serialized and cut again. -/
def Obligations.ChunksAreReadByPosition : Prop :=
  ∀ (bytes : ByteString) (s : State) (b0 b1 l0 l1 : Byte) (tail : ByteString),
    bytes = b0 :: b1 :: l0 :: l1 :: tail →
    (bytes.length / 64 < (4 + (l0.toNat + 256 * l1.toNat) + 63) / 64 →
      exec (.chunk bytes) s = .next { s with status := .ok }) ∧
    ((4 + (l0.toNat + 256 * l1.toNat) + 63) / 64 ≤ bytes.length / 64 → exec (.chunk bytes) s =
      runPseudo [.uparse bytes, .upcmd, .user, .uchunk] s)

/-- R108 (which the spec derives from its other rules), of the reader of chunks that log 7 puts in the environment:
after a chunk 0 that announces LEN it takes the next `ceil((4 + LEN) / 64) - 1` chunks, whatever they hold, as the
frame's, each at its position, and the chunk after them as a chunk 0. What it hands over is well formed. -/
def Obligations.ReaderPlacesChunksByPosition : Prop :=
  ∀ (b0 b1 l0 l1 : Byte) (tail : ByteString) (later rest : List ByteString),
    (b0 :: b1 :: l0 :: l1 :: tail).length = 64 → (∀ w ∈ later, w.length = 64) →
    later.length = (4 + (l0.toNat + 256 * l1.toNat) + 63) / 64 - 1 →
    ∃ is, chunkRequests [] ((b0 :: b1 :: l0 :: l1 :: tail) :: later ++ rest) = is ++ chunkRequests [] rest ∧
      is.length = later.length + 1 ∧ (∀ i ∈ is, i.WellFormed) ∧
      ∀ k, k ≤ later.length →
        is[k]? = some (.chunk (((b0 :: b1 :: l0 :: l1 :: tail) :: later).take (k + 1)).flatten)

/-- Log 7, with R86, R108, R143 and R145: the chunks of any command frame, read in index order from position 0, leave
its reply, the frame, its bytes and the same chunks. -/
def Obligations.ChunksOfFrameAreReproduced : Prop :=
  ∀ (f : CommandFrame) (sb : SerializedBytes) (cq : ChunkQueue) (s : State), FrameOk f → SerializedOf f sb →
    ChunksOf sb cq →
    ∃ r, runRequests (chunkRequests [] cq.c) s =
        .next { s with r := some r, f := some f, sb := some sb, cq := some cq, status := .ok } ∧
      ReplyOk r ∧ r.flag = flagOf f.dir ∧ r.seq = f.seq ∧ r.len.toNat = f.n + 2 ∧ r.data = sb.b.drop 4

/-- Log 8, with R92, R93 and R161: a serial frame is accepted exactly when its address is SADDR and its checksum
is right. -/
def Obligations.SerialRowIsValidated : Prop :=
  ∀ (addr fc d0 d1 d2 ck : Byte) (s : State),
    (addr = s.saddr → ChecksumOk fc d0 d1 d2 ck → exec (.serial addr fc d0 d1 d2 ck) s =
      .next { s with srx := some ⟨addr, fc, d0, d1, d2, ck⟩, status := .ok }) ∧
    (¬ (addr = s.saddr ∧ ChecksumOk fc d0 d1 d2 ck) → exec (.serial addr fc d0 d1 d2 ck) s =
      .next { s with srx := none, status := .invalidResponse })

/-- Log 6, 7 and 8: a wire row is an abbreviation, as R110 reads them, of requests of R100: it reaches no state of
the block that the requests do not reach. A chunk abbreviates them when it completes its frame; before that it writes
STATUS alone. -/
def Obligations.WireRowsAbbreviateRequests : Prop :=
  ∀ s : State,
    (∀ seq cmd pay, exec (.cmdWr seq cmd pay) s = runPseudo [.ubuild .write seq cmd pay, .user] s) ∧
    (∀ seq cmd pay, exec (.cmdRd seq cmd pay) s = runPseudo [.ubuild .read seq cmd pay, .user] s) ∧
    (∀ flag seq data trailing, exec (.replyOk flag seq data trailing) s =
      runPseudo [.uparse (encode (.replyOk flag seq data trailing)).bytes] s) ∧
    (∀ flag seq data trailing, exec (.replyErr flag seq data trailing) s =
      runPseudo [.uparse (encode (.replyErr flag seq data trailing)).bytes] s) ∧
    (∀ bytes, completesFrame bytes = true → exec (.chunk bytes) s =
      runPseudo [.uparse bytes, .upcmd, .user, .uchunk] s) ∧
    (∀ bytes, completesFrame bytes = false → exec (.chunk bytes) s = .next { s with status := .ok }) ∧
    (∀ addr fc d0 d1 d2 ck, exec (.serial addr fc d0 d1 d2 ck) s =
      runPseudo [.sparse fc (encode (.serial addr fc d0 d1 d2 ck)).bytes] s)

/-! ## Laws of the transmit pipeline -/

/-- R123 (which the spec derives from its other rules): the chunks, joined, are the serialized frame and its
padding; the frame less its header is the payload. -/
def Obligations.ChunksConcatenateToFrame : Prop :=
  ∀ (dir : Dir) (seq : Byte) (cmd : Half) (pay : ByteString) (s : State), pay.length + 6 ≤ 512 →
    ∃ t sb cq, runPseudo (usend dir seq cmd pay) s = .next t ∧ t.status = .ok ∧
      t.sb = some sb ∧ t.cq = some cq ∧
      cq.c.flatten = sb.b ++ List.replicate (64 * cq.k - sb.t) 0 ∧
      cq.k = (pay.length + 6 + 63) / 64 ∧ sb.b.length = sb.t ∧ sb.t ≤ 64 * cq.k ∧ 64 * cq.k - sb.t ≤ 63 ∧
      sb.b.drop 6 = pay

/-- R124 (which the spec derives from its other rules): chunk 0 is the header and the first payload bytes; a
later chunk holds payload bytes only. -/
def Obligations.FirstChunkHoldsHeader : Prop :=
  ∀ (dir : Dir) (seq : Byte) (cmd : Half) (pay : ByteString) (s : State), pay.length + 6 ≤ 512 →
    ∃ t sb cq, runPseudo (usend dir seq cmd pay) s = .next t ∧ t.status = .ok ∧ t.sb = some sb ∧
      SerializedOf ⟨dir, seq, cmd, pay.length, pay⟩ sb ∧ t.cq = some cq ∧
      (∃ first, cq.c[0]? = some first ∧ first.take 6 = sb.b.take 6 ∧
        (first.drop 6).take (min pay.length 58) = pay.take (min pay.length 58)) ∧
      (∀ k, 1 ≤ k → k < cq.k → ∃ later, cq.c[k]? = some later ∧
        ∀ j, j < 64 → later[j]? = if 58 + 64 * (k - 1) + j < pay.length then pay[58 + 64 * (k - 1) + j]?
          else some 0)

/-- R125 (which the spec derives from its other rules): after a UBUILD that fails, and as long as no request that
makes a frame ends OK, USER and UCHUNK are NotReady: nothing can be sent. The makers are UBUILD, UPCMD and the wire
rows that stand for one of them (log 6, 7); CLR is none. -/
def Obligations.FailedBuildSendsNothing : Prop :=
  ∀ (dir : Dir) (seq : Byte) (cmd : Half) (pay : ByteString) (s t u : State) (is : List Instr),
    exec (.ubuild dir seq cmd pay) s = .next t → t.status ≠ .ok → noNewFrame is t →
    runRequests is t = .next u →
    exec .user u = .next { u with status := .notReady } ∧ exec .uchunk u = .next { u with status := .notReady }

/-- R126 (which the spec derives from its other rules): a 60-byte payload takes two chunks, the second with 2
payload bytes and 62 zeros. -/
def Obligations.SixtyBytesTakeTwoChunks : Prop :=
  ∀ (dir : Dir) (seq : Byte) (cmd : Half) (pay : ByteString) (s : State), pay.length = 60 →
    ∃ t sb cq, runPseudo (usend dir seq cmd pay) s = .next t ∧ t.status = .ok ∧ t.sb = some sb ∧ sb.t = 66 ∧
      t.cq = some cq ∧ cq.k = 2 ∧ cq.c[1]? = some (pay.drop 58 ++ List.replicate 62 0)

/-- R101: whatever the state, the flag byte a USER that ends OK serializes is 0x40 or 0xC0. -/
def Obligations.SerializerEmitsTwoFlags : Prop :=
  ∀ s t : State, exec .user s = .next t → t.status = .ok →
    ∃ sb, t.sb = some sb ∧ (sb.b[0]? = some 0x40 ∨ sb.b[0]? = some 0xC0)

/-! ## Laws of the parser -/

/-- R142 (which the spec derives from its other rules): build, serialize, parse and view end OK at every step
and give back the frame that was built. -/
def Obligations.RoundTripRestoresFrame : Prop :=
  ∀ (dir : Dir) (seq : Byte) (cmd : Half) (pay : ByteString) (s : State), pay.length + 6 ≤ 512 →
    ∃ a b c d sb r, exec (.ubuild dir seq cmd pay) s = .next a ∧ a.status = .ok ∧
      a.f = some ⟨dir, seq, cmd, pay.length, pay⟩ ∧
      exec .user a = .next b ∧ b.status = .ok ∧ b.sb = some sb ∧ sb.b.length = sb.t ∧
      exec (.uparse sb.b) b = .next c ∧ c.status = .ok ∧ c.r = some r ∧
      r.flag = flagOf dir ∧ r.err = false ∧ r.seq = seq ∧ r.len.toNat = pay.length + 2 ∧
      FieldAt r.data 0 cmd.toNat ∧ r.data.drop 2 = pay ∧
      exec .upcmd c = .next d ∧ d.status = .ok ∧ d.f = a.f

/-- R143 (which the spec derives from its other rules): bytes after a reply change nothing, and the joined
chunks of a frame parse like its serialized bytes. -/
def Obligations.TrailingBytesAreIgnored : Prop :=
  (∀ (rx pad : ByteString) (s u : State), exec (.uparse rx) s = .next u → u.status = .ok →
    exec (.uparse (rx ++ pad)) s = .next u) ∧
  (∀ (dir : Dir) (seq : Byte) (cmd : Half) (pay : ByteString) (s t v : State) (sb : SerializedBytes)
    (cq : ChunkQueue), pay.length + 6 ≤ 512 → runPseudo (usend dir seq cmd pay) s = .next t →
    t.sb = some sb → t.cq = some cq → exec (.uparse cq.c.flatten) v = exec (.uparse sb.b) v)

/-- R144 (which the spec derives from its other rules): the first `4 + L` bytes parse the same, and every
shorter string fails, by name. -/
def Obligations.ShorterStringsFailToParse : Prop :=
  ∀ (rx : ByteString) (s u : State) (r : ReplyFrame),
    exec (.uparse rx) s = .next u → u.status = .ok → u.r = some r →
    exec (.uparse (rx.take (4 + r.len.toNat))) s = .next u ∧
    (∀ j, j < 4 → exec (.uparse (rx.take j)) s = .next { s with r := none, status := .shortReply }) ∧
    (∀ j, 4 ≤ j → j < 4 + r.len.toNat →
      exec (.uparse (rx.take j)) s = .next { s with r := none, status := .truncatedPayload })

/-- R145 (which the spec derives from its other rules): what UPARSE and UPCMD accept is serialized back byte for
byte when its flag byte is 0x40 or 0xC0; otherwise only the flag byte differs, being `128 * rx[0][7] + 64`. -/
def Obligations.ReserializationReturnsBytes : Prop :=
  ∀ (b0 : Byte) (tail : ByteString) (s t u : State) (r : ReplyFrame),
    exec (.uparse (b0 :: tail)) s = .next t → t.status = .ok → t.r = some r →
    exec .upcmd t = .next u → u.status = .ok →
    ∃ v sb, exec .user u = .next v ∧ v.status = .ok ∧ v.sb = some sb ∧ sb.t = 4 + r.len.toNat ∧
      ((b0 = 0x40 ∨ b0 = 0xC0) → sb.b = (b0 :: tail).take (4 + r.len.toNat)) ∧
      sb.b = (if b0.getLsbD 7 then 0xC0 else 0x40) :: tail.take (3 + r.len.toNat)

/-! ## Laws of the serial unit -/

/-- R162 (which the spec derives from its other rules): a built frame passes SPARSE with its own function code.
-/
def Obligations.SerialRoundTripMatches : Prop :=
  ∀ (fc d0 d1 d2 : Byte) (s : State), ∃ t x u ck, exec (.sbuild fc d0 d1 d2) s = .next t ∧ t.stx = some x ∧
    exec (.sparse fc x.b) t = .next u ∧ u.status = .ok ∧
    u.srx = some ⟨s.saddr, fc, d0, d1, d2, ck⟩ ∧ ChecksumOk fc d0 d1 d2 ck

/-- R163 (which the spec derives from its other rules): one changed byte is always detected; two changes can
cancel. -/
def Obligations.OneChangedByteIsDetected : Prop :=
  ∀ (efc : Byte) (rx : ByteString) (s u : State), exec (.sparse efc rx) s = .next u → u.status = .ok →
    (∀ (i : Nat) (b : Byte), i < 10 → rx[i]? ≠ some b →
      exec (.sparse efc (rx.set i b)) s = .next { s with srx := none, status := .invalidResponse }) ∧
    (∀ x, u.srx = some x → exec (.sparse efc ((rx.set 4 (x.d0 + 1)).set 5 (x.d1 - 1))) s =
      .next { s with srx := some { x with d0 := x.d0 + 1, d1 := x.d1 - 1 }, status := .ok })

/-- R264 (which the spec derives from its other rules): a SETADDR between makes the device's own reply fail the
address test. -/
def Obligations.SetaddrBetweenBreaksReply : Prop :=
  ∀ (fc d0 d1 d2 a : Byte) (s t u : State) (x : SerialTransmit), exec (.sbuild fc d0 d1 d2) s = .next t →
    t.stx = some x → exec (.setaddr a) t = .next u → a ≠ s.saddr →
    exec (.sparse fc x.b) u = .next { u with srx := none, status := .invalidResponse }

/-! ## Whole-machine rules -/

/-- R164 (which the spec derives from its other rules): the USB operations neither read nor write the serial
side, SBUILD and SPARSE neither read nor write the USB side, and the two interleave in any order, but for
STATUS. -/
def Obligations.SerialAndUsbAreIndependent : Prop :=
  (∀ i, isUsb i = true → ∀ s s' t t' : State, exec i s = .next t → exec i s' = .next t' →
    t.saddr = s.saddr ∧ t.stx = s.stx ∧ t.srx = s.srx ∧
    (s.f = s'.f → s.sb = s'.sb → s.cq = s'.cq → s.r = s'.r →
      t.f = t'.f ∧ t.sb = t'.sb ∧ t.cq = t'.cq ∧ t.r = t'.r ∧ t.status = t'.status)) ∧
  (∀ i, isSerial i = true → ∀ s s' t t' : State, exec i s = .next t → exec i s' = .next t' →
    t.f = s.f ∧ t.sb = s.sb ∧ t.cq = s.cq ∧ t.r = s.r ∧ t.saddr = s.saddr ∧
    (s.saddr = s'.saddr → s.stx = s'.stx → s.srx = s'.srx →
      t.stx = t'.stx ∧ t.srx = t'.srx ∧ t.status = t'.status)) ∧
  (∀ i j, isUsb i = true → isSerial j = true → ∀ s a b c d : State, exec i s = .next a → exec j a = .next b →
    exec j s = .next c → exec i c = .next d → b = { d with status := b.status })

/-- R227: no operation reads STATUS, so a failure alters no later operation except through the valid bits. -/
def Obligations.StatusIsNotSticky : Prop :=
  ∀ (i : Instr) (s : State) (st : Status), isOperation i = true → exec i { s with status := st } = exec i s

/-- R60 (its idempotence, which the spec derives from its other rules): issuing the same request twice leaves the
state, and so the response, of the first time. For the wire rows this is derived through log 6, 7 and 8. -/
def Obligations.RepeatedRequestChangesNothing : Prop :=
  ∀ (i : Instr) (s t : State), exec i s = .next t → exec i t = .next t

/-- R226: failure entry, for every operation. -/
def Obligations.FailureEntryIsPrecise : Prop :=
  ∀ (i : Instr) (s t : State), isOperation i = true → exec i s = .next t → t.status ≠ .ok →
    (responseOf i t = ⟨t.status, none⟩) ∧
    (t.status = .notReady ∨ t.status = .badRequest → t = { s with status := t.status }) ∧
    (t.status ≠ .notReady → t.status ≠ .badRequest →
      writes i ≠ [] ∧ (∀ g ∈ writes i, t.valid g = false) ∧
      (∀ g, g ∉ writes i → t.groupValue g = s.groupValue g) ∧
      t.saddr = s.saddr ∧ t.pending = s.pending)

/-- R220: the code of each status, and which operations raise it; SBUILD, SETADDR and CLR cannot fail. -/
def Obligations.StatusesAreRaisedByTheirOperations : Prop :=
  ([Status.ok, .payloadTooLarge, .shortReply, .truncatedPayload, .invalidResponse, .lengthTooSmall, .notReady,
    .badRequest].map (fun st => st.code.toNat) = [0, 1, 2, 3, 4, 5, 6, 7]) ∧
  (∀ (i : Instr) (s t : State), isOperation i = true → exec i s = .next t →
    (t.status = .payloadTooLarge → (∃ d q c p, i = .ubuild d q c p) ∨ i = .upcmd) ∧
    (t.status = .shortReply → ∃ rx, i = .uparse rx) ∧
    (t.status = .truncatedPayload → ∃ rx, i = .uparse rx) ∧
    (t.status = .invalidResponse → ∃ efc rx, i = .sparse efc rx) ∧
    (t.status = .lengthTooSmall → i = .upcmd) ∧
    (t.status = .notReady → i = .user ∨ i = .uchunk ∨ i = .upcmd) ∧
    (t.status = .badRequest → i ∈ unassigned))

/-- R222 to R224, and R221 as far as UBUILD: each of the source's four failures, exactly when. -/
def Obligations.SourceFailuresExactlyWhen : Prop :=
  (∀ dir seq cmd pay (s t : State), exec (.ubuild dir seq cmd pay) s = .next t →
    (t.status = .payloadTooLarge ↔ pay.length + 6 > 512)) ∧
  (∀ rx (s t : State), exec (.uparse rx) s = .next t →
    (t.status = .shortReply ↔ rx.length < 4) ∧
    (t.status = .truncatedPayload ↔ rx.length ≥ 4 ∧
      rx.length - 4 < (rx.getD 2 0).toNat + 256 * (rx.getD 3 0).toNat)) ∧
  (∀ efc rx (s t : State), exec (.sparse efc rx) s = .next t →
    (t.status = .invalidResponse ↔ rx.length ≠ 10 ∨ rx.getD 0 0 ≠ 0x55 ∨ rx.getD 1 0 ≠ 0xAA ∨
      rx.getD 8 0 ≠ 0xDA ∨ rx.getD 9 0 ≠ 0xC3 ∨ rx.getD 2 0 ≠ s.saddr ∨ rx.getD 3 0 ≠ efc ∨
      ¬ ChecksumOk (rx.getD 3 0) (rx.getD 4 0) (rx.getD 5 0) (rx.getD 6 0) (rx.getD 7 0)))

/-- R254: a request out of pipeline order ends with NotReady and changes nothing; in order it is not NotReady.
-/
def Obligations.OutOfOrderIsNotReady : Prop :=
  ∀ (i : Instr) (g : Group), (i = .user ∧ g = .F) ∨ (i = .uchunk ∧ g = .SB) ∨ (i = .upcmd ∧ g = .R) →
    ∀ s t : State, exec i s = .next t →
      (s.valid g = false → t = { s with status := .notReady }) ∧ (s.valid g = true → t.status ≠ .notReady)

/-- R263 (which the spec derives from its other rules): UPCMD clears SB.V and CQ.V when R is valid; UPARSE
touches only R. -/
def Obligations.UpcmdOverwritesTransmitFrame : Prop :=
  (∀ s t : State, s.valid .R = true → exec .upcmd s = .next t → t.valid .SB = false ∧ t.valid .CQ = false ∧
    t.r = s.r) ∧
  (∀ rx (s t : State), exec (.uparse rx) s = .next t →
    t = { s with r := t.r, status := t.status } )

/-- R97, R39: the response carries a copy of the group the operation wrote when STATUS is OK, and no value
otherwise; SETADDR and CLR carry none. -/
def Obligations.ResponseCopiesWrittenGroup : Prop :=
  ∀ (i : Instr) (s t : State), exec i s = .next t →
    (responseOf i t).status = t.status ∧
    (t.status ≠ .ok → (responseOf i t).value = none) ∧
    (t.status = .ok →
      ((∃ d q c p, i = .ubuild d q c p) ∨ i = .upcmd → ∃ f, t.f = some f ∧
        (responseOf i t).value = some (.frame f)) ∧
      (i = .user → ∃ sb, t.sb = some sb ∧ (responseOf i t).value = some (.serialized sb)) ∧
      (i = .uchunk → ∃ cq, t.cq = some cq ∧ (responseOf i t).value = some (.chunks cq)) ∧
      ((∃ rx, i = .uparse rx) → ∃ r, t.r = some r ∧ (responseOf i t).value = some (.reply r)) ∧
      ((∃ fc d0 d1 d2, i = .sbuild fc d0 d1 d2) → ∃ x, t.stx = some x ∧
        (responseOf i t).value = some (.serialSent x)) ∧
      ((∃ efc rx, i = .sparse efc rx) → ∃ x, t.srx = some x ∧
        (responseOf i t).value = some (.serialReceived x)) ∧
      ((∃ a, i = .setaddr a) ∨ i = .clr → (responseOf i t).value = none))

/-- R23, with the "read by" column of R20: no operation reads any state but the item named for it. Two states
that agree on that item give the same response and the same value in every group the operation writes. -/
def Obligations.OperationsReadOnlyNamedState : Prop :=
  ∀ (i : Instr) (s s' t t' : State), exec i s = .next t → exec i s' = .next t' →
    ((∃ d q c p, i = .ubuild d q c p) ∨ (∃ rx, i = .uparse rx) ∨ (∃ a, i = .setaddr a) ∨ i = .clr ∨
        i ∈ unassigned ∨
        (((∃ fc d0 d1 d2, i = .sbuild fc d0 d1 d2) ∨ (∃ efc rx, i = .sparse efc rx)) ∧ s.saddr = s'.saddr) ∨
        (i = .user ∧ s.f = s'.f) ∨ (i = .uchunk ∧ s.sb = s'.sb) ∨ (i = .upcmd ∧ s.r = s'.r)) →
      responseOf i t = responseOf i t' ∧
        (t.status ≠ .notReady → ∀ g ∈ writes i, t.groupValue g = t'.groupValue g)

/-- The frame of every instruction (R20, R22, R50; for the wire rows log 6, 7, 8): a group it does not write
keeps its fields and its valid bit, every byte of every buffer of such a group reads as before, SADDR is written by
SETADDR only, and the pending requests by none: there is no further state. -/
def Obligations.InstructionsWriteOnlyTheirGroups : Prop :=
  ∀ (i : Instr) (s t : State), exec i s = .next t →
    (∀ g, g ∉ writes i → t.valid g = s.valid g ∧ t.groupValue g = s.groupValue g) ∧
    (∀ sp, spaceGroup sp ∉ writes i → ∀ a, t.readByte sp a = s.readByte sp a) ∧
    ((∀ a, i ≠ .setaddr a) → t.saddr = s.saddr) ∧
    t.pending = s.pending

/-- Where the bytes go (R36, R120, R121, R122, R140, R141, R160): after an operation that ends OK, byte `a` of the
space it stores to is the byte the rule puts there, for every `a`, and a byte at or beyond the used length has no
value. -/
def Obligations.StoredBytesReadBack : Prop :=
  (∀ dir seq cmd pay (s t : State), exec (.ubuild dir seq cmd pay) s = .next t → t.status = .ok →
    ∀ a, t.readByte .fPay a = pay[a]?) ∧
  (∀ (s t : State) f, s.f = some f → FrameOk f → exec .user s = .next t →
    t.readByte .sbB 0 = some (flagOf f.dir) ∧ t.readByte .sbB 1 = some f.seq ∧
    (∃ l0 l1 c0 c1, t.readByte .sbB 2 = some l0 ∧ t.readByte .sbB 3 = some l1 ∧
      l0.toNat + 256 * l1.toNat = f.n + 2 ∧ t.readByte .sbB 4 = some c0 ∧ t.readByte .sbB 5 = some c1 ∧
      c0.toNat + 256 * c1.toNat = f.cmd.toNat) ∧
    ∀ a, 6 ≤ a → t.readByte .sbB a = s.readByte .fPay (a - 6)) ∧
  (∀ (s t : State) sb, s.sb = some sb → sb.b.length = sb.t → exec .uchunk s = .next t →
    ∀ k a, t.readByte (.cqC k) a =
      if a < 64 ∧ k < (sb.t + 63) / 64 then
        (if 64 * k + a < sb.t then s.readByte .sbB (64 * k + a) else some 0) else none) ∧
  (∀ rx (s t : State) r, exec (.uparse rx) s = .next t → t.status = .ok → t.r = some r →
    ∀ a, t.readByte .rData a = if a < r.len.toNat then rx[4 + a]? else none) ∧
  (∀ (s t : State) r, s.r = some r → ReplyOk r → exec .upcmd s = .next t → t.status = .ok →
    ∀ a, t.readByte .fPay a = s.readByte .rData (a + 2)) ∧
  (∀ fc d0 d1 d2 (s t : State), exec (.sbuild fc d0 d1 d2) s = .next t →
    ∃ ck, ChecksumOk fc d0 d1 d2 ck ∧ ∀ a, t.readByte .stxB a = (serialWire s.saddr fc d0 d1 d2 ck)[a]?)

/-! ## Reset, runs and the invariant -/

/-- R250, R38: the reset state, for every value of the open parameter. -/
def Obligations.ResetStateIsEmpty : Prop :=
  (∀ a, (State.resetWith a).saddr = a ∧ (State.resetWith a).status.code = 0 ∧
    ∀ g, (State.resetWith a).valid g = false) ∧
  State.reset = State.resetWith Config.saddrReset

/-- The invariant holds after reset, for every value of the open parameter. -/
def Obligations.ResetMeetsInvariant : Prop := ∀ a, Inv (State.resetWith a)

/-- R22, R26 to R32: every step keeps the invariant, from every state that meets it. -/
def Obligations.StepKeepsInvariant : Prop := ∀ s t : State, Inv s → step s = .next t → Inv t

/-- R26: whenever F is valid, `F.N + 6 <= 512`; every operation keeps it, and UBUILD and UPCMD are the only
operations that make a frame. -/
def Obligations.FrameInvariantIsKept : Prop :=
  ∀ (i : Instr) (s t : State), isOperation i = true → exec i s = .next t →
    (((∃ d q c p, i = .ubuild d q c p) ∨ i = .upcmd) ∨ t.f = none ∨ t.f = s.f) ∧
    ((∀ f, s.f = some f → f.n + 6 ≤ 512) →
      ∀ f, t.f = some f → f.n + 6 ≤ 512)

/-- R36: in a state that meets the invariant a buffer holds exactly the used bytes of its group. -/
def Obligations.BuffersHoldExactlyUsedBytes : Prop :=
  ∀ s : State, Inv s →
    (∀ f, s.f = some f → f.n ≤ 506 ∧ ∀ a, (s.readByte .fPay a).isSome ↔ a < f.n) ∧
    (∀ sb, s.sb = some sb → sb.t ≤ 512 ∧ ∀ a, (s.readByte .sbB a).isSome ↔ a < sb.t) ∧
    (∀ cq, s.cq = some cq → 1 ≤ cq.k ∧ cq.k ≤ 8 ∧ ∀ k a, (s.readByte (.cqC k) a).isSome ↔ k < cq.k ∧ a < 64) ∧
    (∀ r, s.r = some r → ∀ a, (s.readByte .rData a).isSome ↔ a < r.len.toNat) ∧
    (∀ x, s.stx = some x → ∀ a, (s.readByte .stxB a).isSome ↔ a < 10)

/-- R24: a step takes the oldest pending request and executes it to completion; with none left the run has ended
(the stop is log 3). -/
def Obligations.StepTakesOneRequest : Prop :=
  (∀ (s : State) (e : Entry) (rest : List Entry), s.pending = e :: rest →
    ∃ t, step s = .next t ∧ t.pending = rest) ∧
  (∀ s : State, s.pending = [] → step s = .refused .noRequest)

/-- R24: a run is a finite sequence of requests and ends when the sequence is exhausted: from every state that
meets the invariant, as many steps as there are pending requests, all of them next states. -/
def Obligations.RunServesEveryRequest : Prop :=
  ∀ s : State, Inv s → ∃ t, Host.Core.run core s.pending.length s = .next t ∧ t.pending = [] ∧ Inv t ∧
    step t = .refused .noRequest

/-- A step runs the decoded instruction, on the state less the request it took. That requests wait in a list, and
that a step takes the oldest, is the model's choice (log 3). -/
def Obligations.StepRunsDecodedInstruction : Prop :=
  ∀ (s : State) (e : Entry) (rest : List Entry) (i : Instr), s.pending = e :: rest → decode e = .ok i →
    step s = exec i { s with pending := rest }

/-- R234, with the model's choice of holding the instances in a list (log 12): a step of one instance leaves every
other instance as it was, and does not depend on it. -/
def Obligations.InstancesShareNoState : Prop :=
  ∀ (k : Nat) (sys sys' next : System) (s : State), sys[k]? = some s → sys'[k]? = some s →
    stepInstance k sys = .next next →
    next.length = sys.length ∧ (∀ j, j ≠ k → next[j]? = sys[j]?) ∧
    (∃ t, step s = .next t ∧ next[k]? = some t ∧ stepInstance k sys' = .next (sys'.set k t))

/-- R234, with the list of instances of log 12: a system after reset has in each instance the reset state for its own
SADDR_RESET; resetting one instance leaves the others, and a step that another instance takes does not depend on it. -/
def Obligations.InstancesAreResetOnTheirOwn : Prop :=
  (∀ (addrs : List Byte) (k : Nat), (resetSystem addrs)[k]? = addrs[k]?.map State.resetWith) ∧
  (∀ (k : Nat) (addr : Byte) (sys : System), k < sys.length →
    (resetInstance k addr sys).length = sys.length ∧
    (resetInstance k addr sys)[k]? = some (State.resetWith addr) ∧
    (∀ j, j ≠ k → (resetInstance k addr sys)[j]? = sys[j]?) ∧
    (∀ j next, j ≠ k → stepInstance j sys = .next next →
      stepInstance j (resetInstance k addr sys) = .next (resetInstance k addr next)))

/-- R20, R37 (no state but the ten items): two states that agree on the ten items and on the requests the host has
issued are one state, so nothing else can make any instruction or step answer differently. -/
def Obligations.TenItemsAreTheWholeState : Prop :=
  ∀ s s' : State, s.saddr = s'.saddr → s.status = s'.status →
    (∀ g, s.valid g = s'.valid g ∧ s.groupValue g = s'.groupValue g) →
    (∀ i t, exec i s = .next t → ∃ t', exec i s' = .next t' ∧ t.saddr = t'.saddr ∧ t.status = t'.status ∧
      responseOf i t = responseOf i t' ∧ ∀ g, t.valid g = t'.valid g ∧ t.groupValue g = t'.groupValue g) ∧
    (s.pending = s'.pending → step s = step s')

/-! ## Encoding -/

/-- Decoding an encoded well-formed instruction gives it back, for every row and every operand. -/
def Obligations.DecodeOfEncode : Prop := ∀ i : Instr, i.WellFormed → decode (encode i) = .ok i

/-- What decodes is well formed and encodes to the bytes it came from: each entry has one meaning. -/
def Obligations.EncodeOfDecode : Prop :=
  ∀ (e : Entry) (i : Instr), decode e = .ok i → i.WellFormed ∧ encode i = e

/-- Words written out from the spec's encodings (T1, T2, Q4, S1) decode to what they stand for; so do two requests,
whose bytes are the model's own layout (log 2). -/
def Obligations.WrittenWordsDecode : Prop :=
  decode ⟨.usbCommand, [0x40, 0x00, 0x03, 0x00, 0x34, 0x12, 0x02]⟩ = .ok (.cmdWr 0x00 0x1234 [0x02]) ∧
  decode ⟨.usbCommand, [0xC0, 0x7F, 0x02, 0x00, 0xCD, 0xAB]⟩ = .ok (.cmdRd 0x7F 0xABCD []) ∧
  decode ⟨.usbReply, [0x20, 0x05, 0x01, 0x00, 0x0A, 0x00]⟩ = .ok (.replyErr 0x20 0x05 [0x0A] [0x00]) ∧
  decode ⟨.serialFrame, [0x55, 0xAA, 0x01, 0x03, 0x01, 0x00, 0x00, 0x04, 0xDA, 0xC3]⟩ =
    .ok (.serial 0x01 0x03 0x01 0x00 0x00 0x04) ∧
  decode ⟨.op, [0x07, 0x2A]⟩ = .ok (.setaddr 0x2A) ∧
  decode ⟨.op, [0x0F]⟩ = .ok .unassignedF

/-- R98 and R106, with the model's choice of the byte the operation number stands in (log 2; log 10 for a number
of more than 4 bits): OP 0x0 to 0x8 select the nine operations and 0x9 to 0xF none: the first byte of every request
that decodes is its operation's number, and a first byte of 16 or more is refused. -/
def Obligations.OperationNumbersSelect : Prop :=
  (∀ (op : Byte) (operands : ByteString) (i : Instr), decode ⟨.op, op :: operands⟩ = .ok i →
    (op = 0x0 ↔ ∃ d q c p, i = .ubuild d q c p) ∧ (op = 0x1 ↔ i = .user) ∧ (op = 0x2 ↔ i = .uchunk) ∧
    (op = 0x3 ↔ ∃ rx, i = .uparse rx) ∧ (op = 0x4 ↔ i = .upcmd) ∧
    (op = 0x5 ↔ ∃ fc d0 d1 d2, i = .sbuild fc d0 d1 d2) ∧ (op = 0x6 ↔ ∃ efc rx, i = .sparse efc rx) ∧
    (op = 0x7 ↔ ∃ a, i = .setaddr a) ∧ (op = 0x8 ↔ i = .clr) ∧ (0x9 ≤ op.toNat ↔ i ∈ unassigned)) ∧
  (∀ (op : Byte) (operands : ByteString), 16 ≤ op.toNat →
    decode ⟨.op, op :: operands⟩ = .error .opNotFourBits)
end

