-- ==== Sys2Proof/Laws/Operands.lean ====
section
/-! SUPPORT. The spec lemmas of the operand forms and flag computations. -/

namespace Sys2Proof.Machine

@[simp] theorem length_le16 (v : Nat) : (le16 v).length = 2 := rfl

/-- A 16-bit field read back is the value written (R8). -/
theorem toNat_fromLe16 (b0 b1 : Byte) : (fromLe16 b0 b1).toNat = b0.toNat + 256 * b1.toNat := by
  have := b0.isLt
  have := b1.isLt
  simp only [fromLe16, BitVec.toNat_ofNat]
  omega

theorem toNat_fromLe16_le16 {v : Nat} (h : v < 65536) :
    (fromLe16 (BitVec.ofNat 8 (v % 256)) (BitVec.ofNat 8 (v / 256))).toNat = v := by
  rw [toNat_fromLe16, BitVec.toNat_ofNat, BitVec.toNat_ofNat]
  omega

@[simp] theorem fromLe16_le16_half (c : Half) :
    fromLe16 (BitVec.ofNat 8 (c.toNat % 256)) (BitVec.ofNat 8 (c.toNat / 256)) = c :=
  BitVec.eq_of_toNat_eq (toNat_fromLe16_le16 c.isLt)

/-- The other direction: le16 of what was read is the two bytes. -/
theorem le16_fromLe16 (b0 b1 : Byte) : le16 (b0.toNat + 256 * b1.toNat) = [b0, b1] := by
  have h0 := b0.isLt
  have h1 := b1.isLt
  simp only [le16, List.cons.injEq, and_true]
  constructor <;> apply BitVec.eq_of_toNat_eq <;> rw [BitVec.toNat_ofNat] <;> omega

theorem le16_toNat_fromLe16 (b0 b1 : Byte) : le16 (fromLe16 b0 b1).toNat = [b0, b1] := by
  rw [toNat_fromLe16, le16_fromLe16]

@[simp] theorem dirOperand_dirByte (d : Dir) : dirOperand (dirByte d) = some d := by
  cases d <;> decide

theorem dirByte_of_dirOperand {b : Byte} {d : Dir} (h : dirOperand b = some d) : dirByte d = b := by
  unfold dirOperand at h
  split at h
  · simp_all [dirByte, Dir.bit]
    cases h; rfl
  · split at h
    · simp_all [dirByte, Dir.bit]
      cases h; rfl
    · cases h

theorem toNat_serialChecksum (fc d0 d1 d2 : Byte) :
    (serialChecksum fc d0 d1 d2).toNat = (fc.toNat + d0.toNat + d1.toNat + d2.toNat) % 256 := by
  simp only [serialChecksum, BitVec.toNat_ofNat]
  omega

/-- A byte equals the checksum exactly when it has its value. -/
theorem eq_serialChecksum_iff (fc d0 d1 d2 ck : Byte) : ck = serialChecksum fc d0 d1 d2 ↔
    ck.toNat = (fc.toNat + d0.toNat + d1.toNat + d2.toNat) % 256 := by
  rw [← toNat_serialChecksum]
  exact BitVec.toNat_inj.symm

/-- R.ERR is bit 5 of the flag byte (R89). -/
theorem errorFlag_eq_bit (b : Byte) : errorFlag b = b.getLsbD 5 := by
  revert b; decide

/-- F.DIR is bit 7 of the flag byte (R141). -/
theorem directionOf_eq_bit (b : Byte) : directionOf b = if b.getLsbD 7 then .read else .write := by
  revert b; decide

@[simp] theorem commandFlag_write : commandFlag .write = 0x40 := by decide
@[simp] theorem commandFlag_read : commandFlag .read = 0xC0 := by decide

@[simp] theorem directionOf_commandFlag (d : Dir) : directionOf (commandFlag d) = d := by
  cases d <;> decide

@[simp] theorem errorFlag_commandFlag (d : Dir) : errorFlag (commandFlag d) = false := by
  cases d <;> decide

@[simp] theorem serializedDirection_commandFlag (d : Dir) :
    serializedDirection (commandFlag d) = some d := by
  cases d <;> decide

theorem commandFlag_of_serializedDirection {b : Byte} {d : Dir}
    (h : serializedDirection b = some d) : commandFlag d = b := by
  unfold serializedDirection at h
  split at h
  · cases h; exact (‹b = _›).symm
  · split at h
    · cases h; exact (‹b = _›).symm
    · cases h

/-- The flag byte a parsed frame is serialized with again: its own when it is 0x40 or 0xC0 (R145). -/
theorem commandFlag_directionOf {b : Byte} (h : b = 0x40 ∨ b = 0xC0) :
    commandFlag (directionOf b) = b := by
  rcases h with rfl | rfl <;> decide

@[simp] theorem memRead_zero (buf : ByteString) (n : Nat) : memRead buf 0 n = buf.take n := rfl

theorem memRead_cons4 (a b c d : Byte) (rest : ByteString) (n : Nat) :
    memRead (a :: b :: c :: d :: rest) 4 n = rest.take n := rfl

end Sys2Proof.Machine
end

