-- ==== Sys2Proof/Laws/Encoding.lean ====
section
/-! SUPPORT. What the decoder reads, format by format. -/

namespace Sys2Proof

open Machine Safety

/-- A serialized command frame decodes to the row of its direction. -/
theorem decodeCommand_commandBytes {pay : ByteString} (h : payloadFits pay = true) (d : Dir) (seq : Byte)
    (cmd : Half) : decodeCommand (commandBytes d seq cmd pay) =
      match d with
      | .write => .ok (.cmdWr seq cmd pay)
      | .read => .ok (.cmdRd seq cmd pay) := by
  have h' : pay.length + 6 ≤ 512 := of_decide_eq_true h
  simp only [decodeCommand, commandBytes, le16, List.cons_append, List.nil_append]
  rw [if_pos h, if_pos (toNat_fromLe16_le16 (show pay.length + 2 < 65536 by omega)),
    serializedDirection_commandFlag]
  simp only [fromLe16_le16_half]
  cases d <;> rfl

/-- A reply decodes to the row of its flag bit 5. -/
theorem decodeReply_replyBytes {data : ByteString} (h : data.length < 65536) (flag seq : Byte)
    (trailing : ByteString) : decodeReply (replyBytes flag seq data trailing) =
      if errorFlag flag then .ok (.replyErr flag seq data trailing)
      else .ok (.replyOk flag seq data trailing) := by
  simp only [decodeReply, replyBytes, le16, List.cons_append, List.nil_append]
  rw [toNat_fromLe16_le16 h, if_neg (by simp)]
  simp

/-- A request that decodes is the encoding of an operation. -/
theorem decodeOp_ok {op : Byte} {operands : ByteString} {i : Instr}
    (h : decodeOp op.toNat operands = .ok i) :
    op.toNat < 16 ∧ i.WellFormed ∧ encode i = ⟨.op, op :: operands⟩ ∧ isOperation i = true := by
  have key : ∀ n : Nat, op.toNat = n → n < 256 → op = BitVec.ofNat 8 n := fun n h hn =>
    BitVec.eq_of_toNat_eq (by rw [h, BitVec.toNat_ofNat]; omega)
  unfold decodeOp at h
  split at h
  all_goals rename_i hop
  all_goals try (have hk := key _ hop (by decide); subst hk; clear hop key)
  case h_17 => cases h
  case h_1 =>
    unfold decodeUbuild at h
    split at h
    · split at h
      · cases h
        rename_i hd
        exact ⟨by decide, rfl, by simp only [encode, le16_toNat_fromLe16, dirByte_of_dirOperand hd]; rfl, rfl⟩
      · cases h
    · cases h
  case h_4 => cases h; exact ⟨by decide, rfl, rfl, rfl⟩
  case h_6 => unfold decodeSbuild at h; split at h <;> cases h; exact ⟨by decide, rfl, rfl, rfl⟩
  case h_7 => unfold decodeSparse at h; split at h <;> cases h; exact ⟨by decide, rfl, rfl, rfl⟩
  case h_8 => unfold decodeSetaddr at h; split at h <;> cases h; exact ⟨by decide, rfl, rfl, rfl⟩
  all_goals (unfold decodeBare at h; split at h <;> cases h; exact ⟨by decide, rfl, rfl, rfl⟩)

/-- Which bytes are a chunk behind the earlier chunks of its frame (R86, R108). -/
theorem chunkFits_iff {bytes : ByteString} : chunkFits bytes = true ↔
    bytes.length % 64 = 0 ∧ 1 ≤ bytes.length / 64 ∧ bytes.length / 64 ≤ announcedChunks bytes := by
  simp only [chunkFits, Bool.and_eq_true, decide_eq_true_eq, and_assoc]
  rfl

end Sys2Proof
end

