-- ==== Sys2Proof/Laws/State.lean ====
section
/-! SUPPORT. One lemma per field per update of the state, all by rfl. -/

namespace Sys2Proof.Machine

variable (s : State)

@[simp] theorem State.finish_saddr (st : Status) : (s.finish st).saddr = s.saddr := rfl
@[simp] theorem State.finish_status (st : Status) : (s.finish st).status = st := rfl
@[simp] theorem State.finish_f (st : Status) : (s.finish st).f = s.f := rfl
@[simp] theorem State.finish_sb (st : Status) : (s.finish st).sb = s.sb := rfl
@[simp] theorem State.finish_cq (st : Status) : (s.finish st).cq = s.cq := rfl
@[simp] theorem State.finish_r (st : Status) : (s.finish st).r = s.r := rfl
@[simp] theorem State.finish_stx (st : Status) : (s.finish st).stx = s.stx := rfl
@[simp] theorem State.finish_srx (st : Status) : (s.finish st).srx = s.srx := rfl
@[simp] theorem State.finish_pending (st : Status) : (s.finish st).pending = s.pending := rfl

@[simp] theorem State.setSaddr_saddr (a : Byte) : (s.setSaddr a).saddr = a := rfl
@[simp] theorem State.setSaddr_status (a : Byte) : (s.setSaddr a).status = s.status := rfl
@[simp] theorem State.setSaddr_f (a : Byte) : (s.setSaddr a).f = s.f := rfl
@[simp] theorem State.setSaddr_sb (a : Byte) : (s.setSaddr a).sb = s.sb := rfl
@[simp] theorem State.setSaddr_cq (a : Byte) : (s.setSaddr a).cq = s.cq := rfl
@[simp] theorem State.setSaddr_r (a : Byte) : (s.setSaddr a).r = s.r := rfl
@[simp] theorem State.setSaddr_stx (a : Byte) : (s.setSaddr a).stx = s.stx := rfl
@[simp] theorem State.setSaddr_srx (a : Byte) : (s.setSaddr a).srx = s.srx := rfl
@[simp] theorem State.setSaddr_pending (a : Byte) : (s.setSaddr a).pending = s.pending := rfl

@[simp] theorem State.putF_saddr (x : CommandFrame) : (s.putF x).saddr = s.saddr := rfl
@[simp] theorem State.putF_status (x : CommandFrame) : (s.putF x).status = s.status := rfl
@[simp] theorem State.putF_f (x : CommandFrame) : (s.putF x).f = some x := rfl
@[simp] theorem State.putF_sb (x : CommandFrame) : (s.putF x).sb = s.sb := rfl
@[simp] theorem State.putF_cq (x : CommandFrame) : (s.putF x).cq = s.cq := rfl
@[simp] theorem State.putF_r (x : CommandFrame) : (s.putF x).r = s.r := rfl
@[simp] theorem State.putF_stx (x : CommandFrame) : (s.putF x).stx = s.stx := rfl
@[simp] theorem State.putF_srx (x : CommandFrame) : (s.putF x).srx = s.srx := rfl
@[simp] theorem State.putF_pending (x : CommandFrame) : (s.putF x).pending = s.pending := rfl

@[simp] theorem State.putSB_saddr (x : SerializedBytes) : (s.putSB x).saddr = s.saddr := rfl
@[simp] theorem State.putSB_status (x : SerializedBytes) : (s.putSB x).status = s.status := rfl
@[simp] theorem State.putSB_f (x : SerializedBytes) : (s.putSB x).f = s.f := rfl
@[simp] theorem State.putSB_sb (x : SerializedBytes) : (s.putSB x).sb = some x := rfl
@[simp] theorem State.putSB_cq (x : SerializedBytes) : (s.putSB x).cq = s.cq := rfl
@[simp] theorem State.putSB_r (x : SerializedBytes) : (s.putSB x).r = s.r := rfl
@[simp] theorem State.putSB_stx (x : SerializedBytes) : (s.putSB x).stx = s.stx := rfl
@[simp] theorem State.putSB_srx (x : SerializedBytes) : (s.putSB x).srx = s.srx := rfl
@[simp] theorem State.putSB_pending (x : SerializedBytes) : (s.putSB x).pending = s.pending := rfl

@[simp] theorem State.putCQ_saddr (x : ChunkQueue) : (s.putCQ x).saddr = s.saddr := rfl
@[simp] theorem State.putCQ_status (x : ChunkQueue) : (s.putCQ x).status = s.status := rfl
@[simp] theorem State.putCQ_f (x : ChunkQueue) : (s.putCQ x).f = s.f := rfl
@[simp] theorem State.putCQ_sb (x : ChunkQueue) : (s.putCQ x).sb = s.sb := rfl
@[simp] theorem State.putCQ_cq (x : ChunkQueue) : (s.putCQ x).cq = some x := rfl
@[simp] theorem State.putCQ_r (x : ChunkQueue) : (s.putCQ x).r = s.r := rfl
@[simp] theorem State.putCQ_stx (x : ChunkQueue) : (s.putCQ x).stx = s.stx := rfl
@[simp] theorem State.putCQ_srx (x : ChunkQueue) : (s.putCQ x).srx = s.srx := rfl
@[simp] theorem State.putCQ_pending (x : ChunkQueue) : (s.putCQ x).pending = s.pending := rfl

@[simp] theorem State.putR_saddr (x : ReplyFrame) : (s.putR x).saddr = s.saddr := rfl
@[simp] theorem State.putR_status (x : ReplyFrame) : (s.putR x).status = s.status := rfl
@[simp] theorem State.putR_f (x : ReplyFrame) : (s.putR x).f = s.f := rfl
@[simp] theorem State.putR_sb (x : ReplyFrame) : (s.putR x).sb = s.sb := rfl
@[simp] theorem State.putR_cq (x : ReplyFrame) : (s.putR x).cq = s.cq := rfl
@[simp] theorem State.putR_r (x : ReplyFrame) : (s.putR x).r = some x := rfl
@[simp] theorem State.putR_stx (x : ReplyFrame) : (s.putR x).stx = s.stx := rfl
@[simp] theorem State.putR_srx (x : ReplyFrame) : (s.putR x).srx = s.srx := rfl
@[simp] theorem State.putR_pending (x : ReplyFrame) : (s.putR x).pending = s.pending := rfl

@[simp] theorem State.putSTX_saddr (x : SerialTransmit) : (s.putSTX x).saddr = s.saddr := rfl
@[simp] theorem State.putSTX_status (x : SerialTransmit) : (s.putSTX x).status = s.status := rfl
@[simp] theorem State.putSTX_f (x : SerialTransmit) : (s.putSTX x).f = s.f := rfl
@[simp] theorem State.putSTX_sb (x : SerialTransmit) : (s.putSTX x).sb = s.sb := rfl
@[simp] theorem State.putSTX_cq (x : SerialTransmit) : (s.putSTX x).cq = s.cq := rfl
@[simp] theorem State.putSTX_r (x : SerialTransmit) : (s.putSTX x).r = s.r := rfl
@[simp] theorem State.putSTX_stx (x : SerialTransmit) : (s.putSTX x).stx = some x := rfl
@[simp] theorem State.putSTX_srx (x : SerialTransmit) : (s.putSTX x).srx = s.srx := rfl
@[simp] theorem State.putSTX_pending (x : SerialTransmit) : (s.putSTX x).pending = s.pending := rfl

@[simp] theorem State.putSRX_saddr (x : SerialReceive) : (s.putSRX x).saddr = s.saddr := rfl
@[simp] theorem State.putSRX_status (x : SerialReceive) : (s.putSRX x).status = s.status := rfl
@[simp] theorem State.putSRX_f (x : SerialReceive) : (s.putSRX x).f = s.f := rfl
@[simp] theorem State.putSRX_sb (x : SerialReceive) : (s.putSRX x).sb = s.sb := rfl
@[simp] theorem State.putSRX_cq (x : SerialReceive) : (s.putSRX x).cq = s.cq := rfl
@[simp] theorem State.putSRX_r (x : SerialReceive) : (s.putSRX x).r = s.r := rfl
@[simp] theorem State.putSRX_stx (x : SerialReceive) : (s.putSRX x).stx = s.stx := rfl
@[simp] theorem State.putSRX_srx (x : SerialReceive) : (s.putSRX x).srx = some x := rfl
@[simp] theorem State.putSRX_pending (x : SerialReceive) : (s.putSRX x).pending = s.pending := rfl

@[simp] theorem State.invalidate_F_saddr : (s.invalidate .F).saddr = s.saddr := rfl
@[simp] theorem State.invalidate_F_status : (s.invalidate .F).status = s.status := rfl
@[simp] theorem State.invalidate_F_f : (s.invalidate .F).f = none := rfl
@[simp] theorem State.invalidate_F_sb : (s.invalidate .F).sb = s.sb := rfl
@[simp] theorem State.invalidate_F_cq : (s.invalidate .F).cq = s.cq := rfl
@[simp] theorem State.invalidate_F_r : (s.invalidate .F).r = s.r := rfl
@[simp] theorem State.invalidate_F_stx : (s.invalidate .F).stx = s.stx := rfl
@[simp] theorem State.invalidate_F_srx : (s.invalidate .F).srx = s.srx := rfl
@[simp] theorem State.invalidate_F_pending : (s.invalidate .F).pending = s.pending := rfl

@[simp] theorem State.invalidate_SB_saddr : (s.invalidate .SB).saddr = s.saddr := rfl
@[simp] theorem State.invalidate_SB_status : (s.invalidate .SB).status = s.status := rfl
@[simp] theorem State.invalidate_SB_f : (s.invalidate .SB).f = s.f := rfl
@[simp] theorem State.invalidate_SB_sb : (s.invalidate .SB).sb = none := rfl
@[simp] theorem State.invalidate_SB_cq : (s.invalidate .SB).cq = s.cq := rfl
@[simp] theorem State.invalidate_SB_r : (s.invalidate .SB).r = s.r := rfl
@[simp] theorem State.invalidate_SB_stx : (s.invalidate .SB).stx = s.stx := rfl
@[simp] theorem State.invalidate_SB_srx : (s.invalidate .SB).srx = s.srx := rfl
@[simp] theorem State.invalidate_SB_pending : (s.invalidate .SB).pending = s.pending := rfl

@[simp] theorem State.invalidate_CQ_saddr : (s.invalidate .CQ).saddr = s.saddr := rfl
@[simp] theorem State.invalidate_CQ_status : (s.invalidate .CQ).status = s.status := rfl
@[simp] theorem State.invalidate_CQ_f : (s.invalidate .CQ).f = s.f := rfl
@[simp] theorem State.invalidate_CQ_sb : (s.invalidate .CQ).sb = s.sb := rfl
@[simp] theorem State.invalidate_CQ_cq : (s.invalidate .CQ).cq = none := rfl
@[simp] theorem State.invalidate_CQ_r : (s.invalidate .CQ).r = s.r := rfl
@[simp] theorem State.invalidate_CQ_stx : (s.invalidate .CQ).stx = s.stx := rfl
@[simp] theorem State.invalidate_CQ_srx : (s.invalidate .CQ).srx = s.srx := rfl
@[simp] theorem State.invalidate_CQ_pending : (s.invalidate .CQ).pending = s.pending := rfl

@[simp] theorem State.invalidate_R_saddr : (s.invalidate .R).saddr = s.saddr := rfl
@[simp] theorem State.invalidate_R_status : (s.invalidate .R).status = s.status := rfl
@[simp] theorem State.invalidate_R_f : (s.invalidate .R).f = s.f := rfl
@[simp] theorem State.invalidate_R_sb : (s.invalidate .R).sb = s.sb := rfl
@[simp] theorem State.invalidate_R_cq : (s.invalidate .R).cq = s.cq := rfl
@[simp] theorem State.invalidate_R_r : (s.invalidate .R).r = none := rfl
@[simp] theorem State.invalidate_R_stx : (s.invalidate .R).stx = s.stx := rfl
@[simp] theorem State.invalidate_R_srx : (s.invalidate .R).srx = s.srx := rfl
@[simp] theorem State.invalidate_R_pending : (s.invalidate .R).pending = s.pending := rfl

@[simp] theorem State.invalidate_STX_saddr : (s.invalidate .STX).saddr = s.saddr := rfl
@[simp] theorem State.invalidate_STX_status : (s.invalidate .STX).status = s.status := rfl
@[simp] theorem State.invalidate_STX_f : (s.invalidate .STX).f = s.f := rfl
@[simp] theorem State.invalidate_STX_sb : (s.invalidate .STX).sb = s.sb := rfl
@[simp] theorem State.invalidate_STX_cq : (s.invalidate .STX).cq = s.cq := rfl
@[simp] theorem State.invalidate_STX_r : (s.invalidate .STX).r = s.r := rfl
@[simp] theorem State.invalidate_STX_stx : (s.invalidate .STX).stx = none := rfl
@[simp] theorem State.invalidate_STX_srx : (s.invalidate .STX).srx = s.srx := rfl
@[simp] theorem State.invalidate_STX_pending : (s.invalidate .STX).pending = s.pending := rfl

@[simp] theorem State.invalidate_SRX_saddr : (s.invalidate .SRX).saddr = s.saddr := rfl
@[simp] theorem State.invalidate_SRX_status : (s.invalidate .SRX).status = s.status := rfl
@[simp] theorem State.invalidate_SRX_f : (s.invalidate .SRX).f = s.f := rfl
@[simp] theorem State.invalidate_SRX_sb : (s.invalidate .SRX).sb = s.sb := rfl
@[simp] theorem State.invalidate_SRX_cq : (s.invalidate .SRX).cq = s.cq := rfl
@[simp] theorem State.invalidate_SRX_r : (s.invalidate .SRX).r = s.r := rfl
@[simp] theorem State.invalidate_SRX_stx : (s.invalidate .SRX).stx = s.stx := rfl
@[simp] theorem State.invalidate_SRX_srx : (s.invalidate .SRX).srx = none := rfl
@[simp] theorem State.invalidate_SRX_pending : (s.invalidate .SRX).pending = s.pending := rfl

end Sys2Proof.Machine
end

