-- ==== Sys2Proof/Laws/Ops.lean ====
section
/-! SUPPORT. What the shared operations over registers, valid bits and buffers do. -/

namespace Sys2Proof.Machine

variable (s : State)

theorem State.invalidateFrom_F :
    s.invalidateFrom .F = { s with f := none, sb := none, cq := none } := rfl
theorem State.invalidateFrom_SB : s.invalidateFrom .SB = { s with sb := none, cq := none } := rfl
theorem State.invalidateFrom_CQ : s.invalidateFrom .CQ = { s with cq := none } := rfl
theorem State.invalidateFrom_R : s.invalidateFrom .R = { s with r := none } := rfl
theorem State.invalidateFrom_STX : s.invalidateFrom .STX = { s with stx := none } := rfl
theorem State.invalidateFrom_SRX : s.invalidateFrom .SRX = { s with srx := none } := rfl

/-- Failure entry for NotReady and BadRequest changes STATUS only (R226 (b)). -/
theorem State.raise_of_keepsGroups {st : Status} (h : st.keepsGroups = true) (g : Group) :
    s.raise st g = s.finish st := by simp [State.raise, h]

/-- Failure entry for every other status drops the target and its later stages (R226 (c)). -/
theorem State.raise_of_not_keepsGroups {st : Status} (h : st.keepsGroups = false) (g : Group) :
    s.raise st g = (s.invalidateFrom g).finish st := by simp [State.raise, h]

@[simp] theorem State.raise_notReady (g : Group) :
    s.raise .notReady g = { s with status := .notReady } := rfl

theorem State.raise_status (st : Status) (g : Group) : (s.raise st g).status = st := by
  unfold State.raise; split <;> rfl

@[simp] theorem State.badRequest_eq : s.badRequest = { s with status := .badRequest } := rfl

@[simp] theorem runOps_nil : runOps [] s = s := rfl

theorem runOps_cons_ok {op : State → State} (h : (op s).status = .ok) (ops : List (State → State)) :
    runOps (op :: ops) s = runOps ops (op s) := by simp [runOps, h]

theorem runOps_cons_fail {op : State → State} (h : (op s).status ≠ .ok) (ops : List (State → State)) :
    runOps (op :: ops) s = op s := by simp [runOps, h]

/-- An invariant that every operation of a sequence keeps is kept by the sequence. -/
theorem runOps_keeps {P : State → Prop} {ops : List (State → State)}
    (h : ∀ op ∈ ops, ∀ s, P s → P (op s)) (hs : P s) : P (runOps ops s) := by
  induction ops generalizing s with
  | nil => exact hs
  | cons op ops ih =>
    have hop := h op (by simp) s hs
    unfold runOps
    split
    · exact ih (op s) (fun o ho => h o (by simp [ho])) hop
    · exact hop

end Sys2Proof.Machine
end

