-- ==== Sys2Proof/Laws/PerInstr.lean ====
section
/-! SUPPORT. Per instruction: the encoding of a well-formed instruction carries the format, the fixed bits and
the least length of its row of spec/opcode_table.json. -/

namespace Sys2Proof.Laws.RowMatch

open Sys2Proof Machine

/-- A row of spec/opcode_table.json: its format, the bytes its "match" and "mask" fix (index, mask, pattern),
and its least length in bytes. -/
structure Row where
  format : Format
  fixed : List (Nat × Byte × Byte)
  least : Nat

/-- An OP row: OP in bits 3 to 0 of the first byte. -/
def opRow (op : Byte) (least : Nat) : Row := ⟨.op, [(0, 0x0F, op)], least⟩

/-- The table, row by row. -/
def row : Instr → Row
  | .ubuild _ _ _ _ => opRow 0x0 5
  | .user => opRow 0x1 1
  | .uchunk => opRow 0x2 1
  | .uparse _ => opRow 0x3 1
  | .upcmd => opRow 0x4 1
  | .sbuild _ _ _ _ => opRow 0x5 5
  | .sparse _ _ => opRow 0x6 2
  | .setaddr _ => opRow 0x7 2
  | .clr => opRow 0x8 1
  | .unassigned9 => opRow 0x9 1
  | .unassignedA => opRow 0xA 1
  | .unassignedB => opRow 0xB 1
  | .unassignedC => opRow 0xC 1
  | .unassignedD => opRow 0xD 1
  | .unassignedE => opRow 0xE 1
  | .unassignedF => opRow 0xF 1
  | .cmdWr _ _ _ => ⟨.usbCommand, [(0, 0xFF, 0x40)], 6⟩
  | .cmdRd _ _ _ => ⟨.usbCommand, [(0, 0xFF, 0xC0)], 6⟩
  | .replyOk _ _ _ _ => ⟨.usbReply, [(0, 0x20, 0x00)], 4⟩
  | .replyErr _ _ _ _ => ⟨.usbReply, [(0, 0x20, 0x20)], 4⟩
  | .chunk _ => ⟨.usbWireChunk, [], 64⟩
  | .serial _ _ _ _ _ _ =>
    ⟨.serialFrame, [(0, 0xFF, 0x55), (1, 0xFF, 0xAA), (8, 0xFF, 0xDA), (9, 0xFF, 0xC3)], 10⟩

/-- The entry has the row's format, its fixed bits and its least length. -/
def Matches (r : Row) (e : Entry) : Prop :=
  e.format = r.format ∧ (∀ x ∈ r.fixed, ∃ b, e.bytes[x.1]? = some b ∧ b &&& x.2.1 = x.2.2) ∧
    r.least ≤ e.bytes.length

def Statement (i : Instr) : Prop := i.WellFormed → Matches (row i) (encode i)

/-- One fixed byte, the first. -/
theorem matches_first {f : Format} {m p b : Byte} {n : Nat} {rest : ByteString} (h : b &&& m = p)
    (hl : n ≤ rest.length + 1) : Matches ⟨f, [(0, m, p)], n⟩ ⟨f, b :: rest⟩ :=
  ⟨rfl, by simp [h], by simpa using hl⟩

/-- A reply's flag bit 5 is its error flag (R89). -/
theorem and_errorMask (b : Byte) : b &&& 0x20 = if errorFlag b then 0x20 else 0x00 := by
  revert b; decide

theorem ubuild (dir : Dir) (seq : Byte) (cmd : Half) (pay : ByteString) :
    Statement (.ubuild dir seq cmd pay) := fun _ => matches_first (by decide) (by simp)
theorem user : Statement .user := fun _ => matches_first (by decide) (by decide)
theorem uchunk : Statement .uchunk := fun _ => matches_first (by decide) (by decide)
theorem uparse (rx : ByteString) : Statement (.uparse rx) := fun _ => matches_first (by decide) (by simp)
theorem upcmd : Statement .upcmd := fun _ => matches_first (by decide) (by decide)
theorem sbuild (fc d0 d1 d2 : Byte) : Statement (.sbuild fc d0 d1 d2) :=
  fun _ => matches_first (by decide) (by simp)
theorem sparse (efc : Byte) (rx : ByteString) : Statement (.sparse efc rx) :=
  fun _ => matches_first (by decide) (by simp)
theorem setaddr (a : Byte) : Statement (.setaddr a) := fun _ => matches_first (by decide) (by simp)
theorem clr : Statement .clr := fun _ => matches_first (by decide) (by decide)
theorem unassigned9 : Statement .unassigned9 := fun _ => matches_first (by decide) (by decide)
theorem unassignedA : Statement .unassignedA := fun _ => matches_first (by decide) (by decide)
theorem unassignedB : Statement .unassignedB := fun _ => matches_first (by decide) (by decide)
theorem unassignedC : Statement .unassignedC := fun _ => matches_first (by decide) (by decide)
theorem unassignedD : Statement .unassignedD := fun _ => matches_first (by decide) (by decide)
theorem unassignedE : Statement .unassignedE := fun _ => matches_first (by decide) (by decide)
theorem unassignedF : Statement .unassignedF := fun _ => matches_first (by decide) (by decide)
theorem cmdWr (seq : Byte) (cmd : Half) (pay : ByteString) : Statement (.cmdWr seq cmd pay) :=
  fun _ => matches_first (by decide) (by simp; omega)
theorem cmdRd (seq : Byte) (cmd : Half) (pay : ByteString) : Statement (.cmdRd seq cmd pay) :=
  fun _ => matches_first (by decide) (by simp; omega)

theorem replyOk (flag seq : Byte) (data trailing : ByteString) :
    Statement (.replyOk flag seq data trailing) := by
  intro h
  have hf : errorFlag flag = false := by simpa using (Bool.and_eq_true_iff.1 h).1
  exact matches_first (by rw [and_errorMask, hf]; rfl) (by simp)

theorem replyErr (flag seq : Byte) (data trailing : ByteString) :
    Statement (.replyErr flag seq data trailing) := by
  intro h
  have hf : errorFlag flag = true := (Bool.and_eq_true_iff.1 h).1
  exact matches_first (by rw [and_errorMask, hf]; rfl) (by simp)

theorem chunk (bytes : ByteString) : Statement (.chunk bytes) := by
  intro h
  have hl := (chunkFits_iff.1 h).2.1
  exact ⟨rfl, by simp [row], show 64 ≤ bytes.length by omega⟩

theorem serial (addr fc d0 d1 d2 ck : Byte) : Statement (.serial addr fc d0 d1 d2 ck) := by
  intro _
  refine ⟨rfl, ?_, Nat.le_refl 10⟩
  simp [row, encode, serialFrameBytes]

end Sys2Proof.Laws.RowMatch
end

