-- ==== Sys2Proof/Laws/Serial.lean ====
section
/-! SUPPORT. The spec lemmas of SBUILD and SPARSE. -/

namespace Sys2Proof.Machine

open Safety

variable (s : State)

theorem sbuild_eq (fc d0 d1 d2 : Byte) : sbuild fc d0 d1 d2 s =
    { s with stx := some ⟨serialWire s.saddr fc d0 d1 d2 (serialChecksum fc d0 d1 d2)⟩, status := .ok } := rfl

/-- All six tests of SPARSE pass exactly for the frames that carry SADDR, the expected function code and
their own checksum (R161). -/
theorem validSerialFields_eq_some_iff {saddr efc : Byte} {rx : ByteString} {x : SerialReceive} :
    validSerialFields saddr efc rx = some x ↔
      x.addr = saddr ∧ x.fc = efc ∧ ReceiveOk x ∧ rx = serialWire x.addr x.fc x.d0 x.d1 x.d2 x.ck := by
  constructor
  · intro h
    unfold validSerialFields at h
    split at h
    · split at h
      · cases h
      · split at h
        · cases h
        · split at h
          · cases h
          · split at h
            · cases h
            · split at h
              · cases h
              · cases h
                rename_i hh ht ha hf hc
                simp only [not_or, ne_eq, not_not] at hh ht ha hf hc
                exact ⟨ha, hf, (eq_serialChecksum_iff ..).1 hc, by
                  simp [serialWire, hh.1, hh.2, ht.1, ht.2, Config.serialHead0, Config.serialHead1,
                    Config.serialTail0, Config.serialTail1]⟩
    · cases h
  · rintro ⟨ha, hf, hc, rfl⟩
    have hck : x.ck = serialChecksum x.fc x.d0 x.d1 x.d2 := (eq_serialChecksum_iff ..).2 hc
    simp [validSerialFields, serialWire, Config.serialHead0, Config.serialHead1,
      Config.serialTail0, Config.serialTail1, ha, hf]
    rw [hck, hf]
    simp [← hf, ← ha, ← hck]

theorem sparse_of_some {efc : Byte} {rx : ByteString} {x : SerialReceive}
    (h : validSerialFields s.saddr efc rx = some x) :
    sparse efc rx s = { s with srx := some x, status := .ok } := by
  unfold sparse; rw [h]; rfl

theorem sparse_of_none {efc : Byte} {rx : ByteString} (h : validSerialFields s.saddr efc rx = none) :
    sparse efc rx s = { s with srx := none, status := .invalidResponse } := by
  unfold sparse; rw [h]; rfl

/-- The two ways SPARSE ends (R161). -/
theorem sparse_cases (efc : Byte) (rx : ByteString) :
    (∃ x, validSerialFields s.saddr efc rx = some x ∧
      sparse efc rx s = { s with srx := some x, status := .ok }) ∨
    (validSerialFields s.saddr efc rx = none ∧
      sparse efc rx s = { s with srx := none, status := .invalidResponse }) := by
  cases h : validSerialFields s.saddr efc rx with
  | none => exact .inr ⟨rfl, sparse_of_none s h⟩
  | some x => exact .inl ⟨x, rfl, sparse_of_some s h⟩

end Sys2Proof.Machine
end

