-- ==== Sys2Proof/Laws/System.lean ====
section
/-! SUPPORT. The spec lemmas of SETADDR and CLR. -/

namespace Sys2Proof.Machine

variable (s : State)

theorem setaddr_eq (a : Byte) : setaddr a s = { s with saddr := a, status := .ok } := rfl

theorem clr_eq : clr s = { s with
    f := none, sb := none, cq := none, r := none, stx := none, srx := none, status := .ok } := rfl

end Sys2Proof.Machine
end

