-- ==== Sys2Proof/Laws/UsbRx.lean ====
section
/-! SUPPORT. The spec lemmas of UPARSE and UPCMD. -/

namespace Sys2Proof.Machine

open Safety

variable (s : State)

theorem uparse_of_short {rx : ByteString} (h : rx.length < 4) :
    uparse rx s = { s with r := none, status := .shortReply } := by
  match rx, h with
  | [], _ => rfl
  | [_], _ => rfl
  | [_, _], _ => rfl
  | [_, _, _], _ => rfl

theorem uparse_of_truncated {l0 l1 : Byte} {rest : ByteString} (flag seq : Byte)
    (h : rest.length < l0.toNat + 256 * l1.toNat) :
    uparse (flag :: seq :: l0 :: l1 :: rest) s = { s with r := none, status := .truncatedPayload } := by
  simp only [uparse]
  rw [if_pos (by rwa [toNat_fromLe16])]
  rfl

theorem uparse_of_whole {l0 l1 : Byte} {rest : ByteString} (flag seq : Byte)
    (h : l0.toNat + 256 * l1.toNat ≤ rest.length) :
    uparse (flag :: seq :: l0 :: l1 :: rest) s =
      { s with
        r := some ⟨flag, flag.getLsbD 5, seq, fromLe16 l0 l1, rest.take (l0.toNat + 256 * l1.toNat)⟩
        status := .ok } := by
  simp only [uparse]
  rw [if_neg (by rw [toNat_fromLe16]; omega), errorFlag_eq_bit, toNat_fromLe16]
  rfl

/-- Every received string falls under one of the three cases of R140. -/
theorem received_cases (rx : ByteString) : rx.length < 4 ∨
    ∃ flag seq l0 l1 rest, rx = flag :: seq :: l0 :: l1 :: rest := by
  match rx with
  | [] => simp
  | [_] => simp
  | [_, _] => simp
  | [_, _, _] => simp
  | a :: b :: c :: d :: rest => exact .inr ⟨a, b, c, d, rest, rfl⟩

theorem upcmd_of_none (h : s.r = none) : upcmd s = { s with status := .notReady } := by
  unfold upcmd
  split
  · rfl
  · simp_all

theorem upcmd_of_lengthTooSmall {r : ReplyFrame} (h : s.r = some r) (hl : r.len.toNat < 2) :
    upcmd s = { s with f := none, sb := none, cq := none, status := .lengthTooSmall } := by
  unfold upcmd
  split
  · simp_all
  · rename_i hr
    cases h.symm.trans hr
    rw [if_pos (show r.len.toNat < 2 by omega)]
    rfl

theorem upcmd_of_payloadTooLarge {r : ReplyFrame} (h : s.r = some r) (hl : 508 < r.len.toNat) :
    upcmd s = { s with f := none, sb := none, cq := none, status := .payloadTooLarge } := by
  unfold upcmd
  split
  · simp_all
  · rename_i hr
    cases h.symm.trans hr
    rw [if_neg (show ¬ r.len.toNat < 2 by omega), if_pos (show r.len.toNat - 2 + 6 > 512 by omega)]
    rfl

theorem upcmd_of_fits {r : ReplyFrame} (h : s.r = some r) (h2 : 2 ≤ r.len.toNat) (hl : r.len.toNat ≤ 508) :
    upcmd s = { s with f := some (commandView r), sb := none, cq := none, status := .ok } := by
  unfold upcmd
  split
  · simp_all
  · rename_i hr
    cases h.symm.trans hr
    rw [if_neg (show ¬ r.len.toNat < 2 by omega), if_neg (show ¬ r.len.toNat - 2 + 6 > 512 by omega)]
    rfl

/-- The command view of a reply whose data begins with two command bytes (R91). -/
theorem commandView_of_data {r : ReplyFrame} {c0 c1 : Byte} {pay : ByteString} (h : r.data = c0 :: c1 :: pay)
    (hl : r.data.length = r.len.toNat) :
    commandView r =
      ⟨directionOf r.flag, r.seq, fromLe16 c0 c1, pay.length, pay⟩ := by
  have : r.len.toNat - 2 = pay.length := by rw [← hl, h]; simp
  simp [commandView, Config.lenBias, this, h, bufByte, memRead]

/-- The command view of a sound reply with room for a command field, field by field (R91, R141). -/
theorem commandView_fields {r : ReplyFrame} (hr : ReplyOk r) (h2 : 2 ≤ r.len.toNat) :
    (commandView r).dir = (if r.flag.getLsbD 7 then .read else .write) ∧ (commandView r).seq = r.seq ∧
      FieldAt r.data 0 (commandView r).cmd.toNat ∧ (commandView r).n = r.len.toNat - 2 ∧
      (commandView r).pay = r.data.drop 2 := by
  have hl := hr.length
  obtain ⟨c0, c1, pay, hd⟩ : ∃ c0 c1 pay, r.data = c0 :: c1 :: pay := by
    match hd : r.data with
    | [] => simp [hd] at hl; omega
    | [_] => simp [hd] at hl; omega
    | a :: b :: rest => exact ⟨_, _, _, rfl⟩
  rw [commandView_of_data hd hl]
  refine ⟨directionOf_eq_bit _, rfl, ⟨c0, c1, by simp [hd], by simp [hd], (toNat_fromLe16 ..).symm⟩, ?_,
    by simp [hd]⟩
  rw [← hl, hd]; simp

/-- The three ways UPARSE ends (R140). -/
theorem uparse_cases (rx : ByteString) :
    (rx.length < 4 ∧ uparse rx s = { s with r := none, status := .shortReply }) ∨
    ∃ flag seq l0 l1 rest, rx = flag :: seq :: l0 :: l1 :: rest ∧
      ((rest.length < l0.toNat + 256 * l1.toNat ∧
        uparse rx s = { s with r := none, status := .truncatedPayload }) ∨
      (l0.toNat + 256 * l1.toNat ≤ rest.length ∧ uparse rx s = { s with
        r := some ⟨flag, flag.getLsbD 5, seq, fromLe16 l0 l1, rest.take (l0.toNat + 256 * l1.toNat)⟩
        status := .ok })) := by
  rcases received_cases rx with h | ⟨a, b, l0, l1, rest, rfl⟩
  · exact .inl ⟨h, uparse_of_short s h⟩
  · refine .inr ⟨a, b, l0, l1, rest, rfl, ?_⟩
    rcases Nat.lt_or_ge rest.length (l0.toNat + 256 * l1.toNat) with h | h
    · exact .inl ⟨h, uparse_of_truncated s _ _ h⟩
    · exact .inr ⟨h, uparse_of_whole s _ _ h⟩

/-- The four ways UPCMD ends (R141). -/
theorem upcmd_cases :
    (s.r = none ∧ upcmd s = { s with status := .notReady }) ∨
    ∃ r, s.r = some r ∧
      ((r.len.toNat < 2 ∧
        upcmd s = { s with f := none, sb := none, cq := none, status := .lengthTooSmall }) ∨
      (508 < r.len.toNat ∧
        upcmd s = { s with f := none, sb := none, cq := none, status := .payloadTooLarge }) ∨
      (2 ≤ r.len.toNat ∧ r.len.toNat ≤ 508 ∧
        upcmd s = { s with f := some (commandView r), sb := none, cq := none, status := .ok })) := by
  rcases Option.eq_none_or_eq_some s.r with h | ⟨r, h⟩
  · exact .inl ⟨h, upcmd_of_none s h⟩
  · refine .inr ⟨r, h, ?_⟩
    rcases Nat.lt_or_ge r.len.toNat 2 with h2 | h2
    · exact .inl ⟨h2, upcmd_of_lengthTooSmall s h h2⟩
    · rcases Nat.lt_or_ge 508 r.len.toNat with h3 | h3
      · exact .inr (.inl ⟨h3, upcmd_of_payloadTooLarge s h h3⟩)
      · exact .inr (.inr ⟨h2, h3, upcmd_of_fits s h h2 h3⟩)

end Sys2Proof.Machine
end

