-- ==== Sys2Proof/Laws/UsbTx.lean ====
section
/-! SUPPORT. The spec lemmas of UBUILD, USER and UCHUNK. -/

namespace Sys2Proof.Machine

open Safety

variable (s : State)

theorem ubuild_of_fits {pay : ByteString} (h : pay.length + 6 ≤ 512) (dir : Dir) (seq : Byte) (cmd : Half) :
    ubuild dir seq cmd pay s =
      { s with f := some ⟨dir, seq, cmd, pay.length, pay⟩, sb := none, cq := none, status := .ok } := by
  unfold ubuild
  rw [if_neg (show ¬ pay.length + 6 > 512 by omega)]
  rfl

theorem ubuild_of_tooLong {pay : ByteString} (h : 512 < pay.length + 6) (dir : Dir) (seq : Byte) (cmd : Half) :
    ubuild dir seq cmd pay s =
      { s with f := none, sb := none, cq := none, status := .payloadTooLarge } := by
  unfold ubuild
  rw [if_pos (show pay.length + 6 > 512 by omega)]
  rfl

theorem user_of_none (h : s.f = none) : user s = { s with status := .notReady } := by
  unfold user
  split
  · rfl
  · simp_all

theorem user_of_some {f : CommandFrame} (h : s.f = some f) :
    user s = { s with sb := some (serializeFrame f), cq := none, status := .ok } := by
  unfold user
  split
  · simp_all
  · rename_i hf
    cases h.symm.trans hf
    rfl

theorem uchunk_of_none (h : s.sb = none) : uchunk s = { s with status := .notReady } := by
  unfold uchunk
  split
  · rfl
  · simp_all

theorem uchunk_of_some {sb : SerializedBytes} (h : s.sb = some sb) :
    uchunk s = { s with cq := some (cutChunks sb), status := .ok } := by
  unfold uchunk
  split
  · simp_all
  · rename_i hb
    cases h.symm.trans hb
    rfl

/-- The serialized bytes of a sound frame: six header bytes, then the payload. -/
theorem serializeFrame_b {f : CommandFrame} (h : FrameOk f) :
    (serializeFrame f).b = commandFlag f.dir :: f.seq :: (le16 (f.n + 2) ++ le16 f.cmd.toNat ++ f.pay) := by
  simp [serializeFrame, Config.lenBias, ← h.length]

theorem serializeFrame_t (f : CommandFrame) : (serializeFrame f).t = f.n + 6 := rfl

theorem length_serializeFrame_b {f : CommandFrame} (h : FrameOk f) :
    (serializeFrame f).b.length = (serializeFrame f).t := by
  simp only [serializeFrame_b h, serializeFrame_t, List.length_cons, List.length_append, length_le16, h.length]
  omega

theorem chunkCount_eq (t : Nat) : chunkCount t = (t + 63) / 64 := rfl

@[simp] theorem length_wireChunk (sb : SerializedBytes) (k : Nat) : (wireChunk sb k).length = 64 := by
  simp [wireChunk, Config.chunkBytes]

/-- Byte `j` of chunk `k` (R86). -/
theorem getElem?_wireChunk (sb : SerializedBytes) {j : Nat} (k : Nat) (h : j < 64) :
    (wireChunk sb k)[j]? = some (if 64 * k + j < sb.t then sb.b.getD (64 * k + j) 0 else 0) := by
  simp [wireChunk, Config.chunkBytes, List.getElem?_range h, chunkByte, bufByte]

@[simp] theorem length_cutChunks_c (sb : SerializedBytes) : (cutChunks sb).c.length = (cutChunks sb).k := by
  simp [cutChunks]

theorem getElem?_cutChunks_c {sb : SerializedBytes} {k : Nat} (h : k < (cutChunks sb).k) :
    (cutChunks sb).c[k]? = some (wireChunk sb k) := by
  simp only [cutChunks] at h ⊢
  simp [List.getElem?_range h]

/-- A 16-bit field written by le16 is there (R52). -/
theorem fieldAt_le16 (a b : Byte) {v : Nat} (h : v < 65536) (rest : ByteString) :
    FieldAt (a :: b :: (le16 v ++ rest)) 2 v := by
  refine ⟨_, _, rfl, rfl, ?_⟩
  rw [BitVec.toNat_ofNat, BitVec.toNat_ofNat]
  omega

/-- Serializing a sound frame gives the layout of R80. -/
theorem serializedOf_serializeFrame {f : CommandFrame} (h : FrameOk f) : SerializedOf f (serializeFrame f) := by
  have hb := serializeFrame_b h
  have hf := h.fits
  refine ⟨rfl, length_serializeFrame_b h, ?_, ?_, ?_, ?_, ?_⟩
  · rw [hb]; cases f.dir <;> rfl
  · rw [hb]; rfl
  · rw [hb]; simp only [List.append_assoc]; exact fieldAt_le16 _ _ (by omega) _
  · rw [hb]
    refine ⟨_, _, rfl, rfl, ?_⟩
    rw [BitVec.toNat_ofNat, BitVec.toNat_ofNat]
    have := f.cmd.isLt
    omega
  · intro j hj
    rw [hb, Nat.add_comm 6 j]
    rfl

/-- A byte of the serialized payload. -/
theorem getElem?_serializeFrame_b {f : CommandFrame} (h : FrameOk f) {i : Nat} (hi : 6 ≤ i) :
    (serializeFrame f).b[i]? = f.pay[i - 6]? := by
  rw [serializeFrame_b h]
  obtain ⟨j, rfl⟩ := Nat.exists_eq_add_of_le hi
  rw [Nat.add_comm 6 j, Nat.add_sub_cancel]
  rfl

/-- Cutting gives the chunks of R86. -/
theorem chunksOf_cutChunks {sb : SerializedBytes} (h : sb.b.length = sb.t) : ChunksOf sb (cutChunks sb) := by
  refine ⟨rfl, length_cutChunks_c sb, fun k hk =>
    ⟨_, getElem?_cutChunks_c hk, length_wireChunk .., fun j hj => ?_⟩⟩
  rw [getElem?_wireChunk sb k hj]
  split
  · rename_i hlt
    rw [List.getD_eq_getElem?_getD, List.getElem?_eq_getElem (by omega)]; rfl
  · rfl

/-- Blocks of 64 consecutive values, joined. -/
theorem flatten_blocks (g : Nat → Byte) (n : Nat) :
    ((List.range n).map fun k => (List.range 64).map fun j => g (64 * k + j)).flatten =
      (List.range (64 * n)).map g := by
  induction n with
  | zero => rfl
  | succ n ih =>
    rw [List.range_succ (n := n), List.map_append, List.flatten_append, ih, Nat.mul_succ, List.range_add,
      List.map_append]
    simp [Function.comp_def]

/-- The chunks, joined, are the serialized bytes and the padding. -/
theorem flatten_cutChunks {sb : SerializedBytes} (h : sb.b.length = sb.t) :
    (cutChunks sb).c.flatten = sb.b ++ List.replicate (64 * (cutChunks sb).k - sb.t) 0 := by
  have hk : sb.t ≤ 64 * chunkCount sb.t := by rw [chunkCount_eq]; omega
  refine (flatten_blocks (fun i => if i < sb.t then bufByte sb.b i else 0) (chunkCount sb.t)).trans ?_
  apply List.ext_getElem?
  intro i
  simp only [List.getElem?_map, List.getElem?_append, h, List.getElem?_replicate, cutChunks]
  by_cases hi : i < sb.t
  · rw [List.getElem?_range (by omega), if_pos hi]
    simp [bufByte, hi, List.getD_eq_getElem?_getD, List.getElem?_eq_getElem (h.symm ▸ hi)]
  · rw [if_neg hi]
    by_cases hj : i < 64 * chunkCount sb.t
    · rw [List.getElem?_range hj, if_pos (by omega)]; simp [hi]
    · rw [if_neg (by omega), List.getElem?_eq_none (by simpa using hj)]; rfl

end Sys2Proof.Machine
end

