-- ==== Sys2Proof/Laws/Wire.lean ====
section
/-! SUPPORT. The spec lemmas of the wire-format rows: sequences of operations and the byte strings of the
encoder. -/

namespace Sys2Proof.Machine

open Safety

variable (s : State)

/-- UBUILD, then USER, on a payload that fits. -/
theorem runOps_ubuild_user_of_fits {pay : ByteString} (h : pay.length + 6 ≤ 512) (d : Dir) (seq : Byte)
    (cmd : Half) :
    runOps [ubuild d seq cmd pay, user] s = { s with
      f := some ⟨d, seq, cmd, pay.length, pay⟩
      sb := some ⟨pay.length + 6, commandBytes d seq cmd pay⟩, cq := none, status := .ok } := by
  rw [runOps_cons_ok _ (by rw [ubuild_of_fits s h]), ubuild_of_fits s h,
    runOps_cons_ok _ (by rw [user_of_some _ rfl]), user_of_some _ rfl, runOps_nil, commandBytes,
    ← serializeFrame_b (f := ⟨d, seq, cmd, pay.length, pay⟩) ⟨rfl, h⟩]
  rfl

/-- UBUILD fails, so USER does not run. -/
theorem runOps_ubuild_user_of_tooLong {pay : ByteString} (h : 512 < pay.length + 6) (d : Dir) (seq : Byte)
    (cmd : Half) :
    runOps [ubuild d seq cmd pay, user] s =
      { s with f := none, sb := none, cq := none, status := .payloadTooLarge } := by
  rw [runOps_cons_fail _ (by rw [ubuild_of_tooLong s h]; simp), ubuild_of_tooLong s h]

/-- Parsing the bytes of a reply gives its fields back, whatever follows them. -/
theorem uparse_replyBytes {data : ByteString} (h : data.length < 65536) (flag seq : Byte)
    (trailing : ByteString) :
    uparse (replyBytes flag seq data trailing) s = { s with
      r := some ⟨flag, flag.getLsbD 5, seq, BitVec.ofNat 16 data.length, data⟩, status := .ok } := by
  have e : BitVec.toNat (BitVec.ofNat 8 (data.length % 256)) +
      256 * BitVec.toNat (BitVec.ofNat 8 (data.length / 256)) = data.length := by
    rw [BitVec.toNat_ofNat, BitVec.toNat_ofNat]; omega
  have hw := uparse_of_whole s flag seq (rest := data ++ trailing)
    (l0 := BitVec.ofNat 8 (data.length % 256)) (l1 := BitVec.ofNat 8 (data.length / 256)) (by rw [e]; simp)
  have e2 : fromLe16 (BitVec.ofNat 8 (data.length % 256)) (BitVec.ofNat 8 (data.length / 256)) =
      BitVec.ofNat 16 data.length := by
    apply BitVec.eq_of_toNat_eq
    rw [toNat_fromLe16, e, BitVec.toNat_ofNat]
    omega
  rw [e, e2, List.take_left'] at hw
  · exact hw
  · rfl

/-- Parsing a serialized frame: its data is the command field and the payload. -/
theorem uparse_serializeFrame {f : CommandFrame} (h : FrameOk f) (pad : ByteString) :
    uparse ((serializeFrame f).b ++ pad) s = { s with
      r := some ⟨commandFlag f.dir, false, f.seq, BitVec.ofNat 16 (f.n + 2), le16 f.cmd.toNat ++ f.pay⟩
      status := .ok } := by
  have hlen : (le16 f.cmd.toNat ++ f.pay).length = f.n + 2 := by simp [h.length]; omega
  have hf := h.fits
  have hr := uparse_replyBytes s (show (le16 f.cmd.toNat ++ f.pay).length < 65536 by omega)
    (commandFlag f.dir) f.seq pad
  rw [replyBytes, hlen, ← errorFlag_eq_bit, errorFlag_commandFlag] at hr
  rw [serializeFrame_b h]
  simpa [le16] using hr

/-- The command view of the parsed frame is the frame. -/
theorem commandView_parsed {f : CommandFrame} (h : FrameOk f) (err : Bool) :
    commandView ⟨commandFlag f.dir, err, f.seq, BitVec.ofNat 16 (f.n + 2), le16 f.cmd.toNat ++ f.pay⟩ = f := by
  have hf := h.fits
  rw [commandView_of_data (c0 := BitVec.ofNat 8 (f.cmd.toNat % 256))
    (c1 := BitVec.ofNat 8 (f.cmd.toNat / 256)) (pay := f.pay) rfl
    (by simp only [List.length_append, length_le16, h.length, BitVec.toNat_ofNat]; omega)]
  simp only [fromLe16_le16_half, directionOf_commandFlag, h.length]

theorem announcedChunks_cons (b0 b1 l0 l1 : Byte) (tail : ByteString) :
    announcedChunks (b0 :: b1 :: l0 :: l1 :: tail) = moreChunks l0 l1 + 1 := by
  simp only [announcedChunks, announcedLength, toNat_fromLe16, chunkCount_eq, moreChunks,
    Config.replyHeaderBytes]
  omega

/-- When the frame is complete, by the position of its last chunk and the LEN of chunk 0 (R108). -/
theorem completesFrame_iff {bytes tail : ByteString} {b0 b1 l0 l1 : Byte}
    (h : bytes = b0 :: b1 :: l0 :: l1 :: tail) :
    completesFrame bytes = true ↔ moreChunks l0 l1 < bytes.length / 64 := by
  subst h
  simp only [completesFrame, announcedChunks_cons, chunksJoined, Config.chunkBytes, decide_eq_true_eq]
  omega

theorem readChunk_of_complete {bytes : ByteString} (h : completesFrame bytes = true) :
    readChunk bytes s = runOps [uparse bytes, upcmd, user, uchunk] s := if_pos h

theorem readChunk_of_incomplete {bytes : ByteString} (h : completesFrame bytes = false) :
    readChunk bytes s = { s with status := .ok } := if_neg (by simp [h])

/-- The three ways the four operations that follow a complete frame end: the parser refuses the string, the
command view refuses the reply, or all four end OK. -/
theorem runOps_reproduce_cases (rx : ByteString) :
    ((uparse rx s).status ≠ .ok ∧ runOps [uparse rx, upcmd, user, uchunk] s = uparse rx s) ∨
    ∃ r, (∀ t : State, uparse rx t = { t with r := some r, status := .ok }) ∧ r.data.length = r.len.toNat ∧
      ((∃ st, st ≠ .ok ∧
        (∀ t : State, t.r = some r → upcmd t = { t with f := none, sb := none, cq := none, status := st }) ∧
        runOps [uparse rx, upcmd, user, uchunk] s =
          { s with r := some r, f := none, sb := none, cq := none, status := st }) ∨
      (2 ≤ r.len.toNat ∧ r.len.toNat ≤ 508 ∧ runOps [uparse rx, upcmd, user, uchunk] s = { s with
        r := some r, f := some (commandView r), sb := some (serializeFrame (commandView r))
        cq := some (cutChunks (serializeFrame (commandView r))), status := .ok })) := by
  rcases uparse_cases s rx with ⟨-, h⟩ | ⟨flag, seq, l0, l1, rest, rfl, ⟨-, h⟩ | ⟨hl, h⟩⟩
  · exact .inl ⟨by rw [h]; simp, runOps_cons_fail _ (by rw [h]; simp) _⟩
  · exact .inl ⟨by rw [h]; simp, runOps_cons_fail _ (by rw [h]; simp) _⟩
  · refine .inr ⟨⟨flag, flag.getLsbD 5, seq, fromLe16 l0 l1, rest.take (l0.toNat + 256 * l1.toNat)⟩,
      fun t => uparse_of_whole t flag seq hl, by simp [toNat_fromLe16]; exact hl, ?_⟩
    rw [runOps_cons_ok _ (by rw [h]), h]
    rcases Nat.lt_or_ge (fromLe16 l0 l1).toNat 2 with h2 | h2
    · refine .inl ⟨.lengthTooSmall, by simp, fun t ht => upcmd_of_lengthTooSmall t ht h2, ?_⟩
      rw [runOps_cons_fail _ (by rw [upcmd_of_lengthTooSmall _ rfl h2]; simp),
        upcmd_of_lengthTooSmall _ rfl h2]
    · rcases Nat.lt_or_ge 508 (fromLe16 l0 l1).toNat with h3 | h3
      · refine .inl ⟨.payloadTooLarge, by simp, fun t ht => upcmd_of_payloadTooLarge t ht h3, ?_⟩
        rw [runOps_cons_fail _ (by rw [upcmd_of_payloadTooLarge _ rfl h3]; simp),
          upcmd_of_payloadTooLarge _ rfl h3]
      · refine .inr ⟨h2, h3, ?_⟩
        rw [runOps_cons_ok _ (by rw [upcmd_of_fits _ rfl h2 h3]), upcmd_of_fits _ rfl h2 h3,
          runOps_cons_ok _ (by rw [user_of_some _ rfl]), user_of_some _ rfl,
          runOps_cons_ok _ (by rw [uchunk_of_some _ rfl]), uchunk_of_some _ rfl, runOps_nil]

end Sys2Proof.Machine
end

