-- ==== Sys2Proof/Laws/Step.lean ====
section
/-! SUPPORT. What executing an instruction and taking a step come to. -/

namespace Sys2Proof.Machine

/-- The state an instruction leaves. -/
def after (i : Instr) (s : State) : State :=
  match exec i s with
  | .next t => t
  | .fault q => nomatch q
  | .refused _ => s

/-- Every instruction answers a next state, in every state. -/
theorem exec_eq_next (i : Instr) (s : State) : exec i s = .next (after i s) := by
  cases i <;> rfl

theorem exec_next_iff {i : Instr} {s t : State} : exec i s = .next t ↔ t = after i s := by
  rw [exec_eq_next]
  exact ⟨fun h => by cases h; rfl, fun h => by rw [h]⟩

theorem step_of_pending {s : State} {e : Entry} {rest : List Entry} (h : s.pending = e :: rest) :
    step s = serveEntry e { s with pending := rest } := by
  unfold step; rw [h]

theorem step_of_idle {s : State} (h : s.pending = []) : step s = .refused .noRequest := by
  unfold step; rw [h]

theorem serveEntry_of_ok {e : Entry} {i : Instr} (h : decode e = .ok i) (s : State) :
    serveEntry e s = exec i s := by
  unfold serveEntry; rw [h]

theorem serveEntry_of_error {e : Entry} {q : DecodeError} (h : decode e = .error q) (s : State) :
    serveEntry e s = .next (rejectEntry e s) := by
  unfold serveEntry; rw [h]

end Sys2Proof.Machine
end

