-- ==== Sys2Proof/Tests/Slice0.lean ====
section
/-! SUPPORT. Tests whose expected results come from spec/95_test_vectors.md or are worked out by hand from the
rules, and the witnesses that the hypotheses of the obligations can be met. -/

namespace Sys2Proof.Tests

open Sys2Proof Machine Safety

/-! ## Helpers -/

/-- The state after reset with SADDR_RESET = 0x01. -/
def fresh : State := State.resetWith 0x01

/-- `n` payload bytes. -/
def fill (n : Nat) : ByteString := List.replicate n 0xA5

def frameT1 : CommandFrame := ⟨.write, 0x00, 0x1234, 1, [0x02]⟩
def bytesT1 : ByteString := [0x40, 0x00, 0x03, 0x00, 0x34, 0x12, 0x02]
def serializedT1 : SerializedBytes := ⟨7, bytesT1⟩
def chunkT1 : ByteString := bytesT1 ++ List.replicate 57 0
/-- The two chunks of vector T4, with payload bytes 0x11 and the last 0x3A. -/
def chunkT4a : ByteString := [0xC0, 0x02, 0x3D, 0x00, 0x34, 0x12] ++ List.replicate 58 0x11
def chunkT4b : ByteString := 0x3A :: List.replicate 63 0
def replyQ10 : ReplyFrame := ⟨0x40, false, 0x00, 3, [0x34, 0x12, 0x02]⟩
def wireS1 : ByteString := [0x55, 0xAA, 0x01, 0x03, 0x01, 0x00, 0x00, 0x04, 0xDA, 0xC3]
def fieldsS6 : SerialReceive := ⟨0x01, 0x03, 0x01, 0x00, 0x00, 0x04⟩

/-- Every group valid (T1, Q10, S1, S6). -/
def full : State where
  saddr := 0x01
  status := .ok
  f := some frameT1
  sb := some serializedT1
  cq := some ⟨1, [chunkT1]⟩
  r := some replyQ10
  stx := some ⟨wireS1⟩
  srx := some fieldsS6
  pending := []

/-- The state one step leaves when the entry is the next request, if it is a next state. -/
def ran (e : Entry) (s : State) : Option State :=
  match step { s with pending := [e] } with
  | .next t => some t
  | _ => none

/-- STATUS after that step. -/
def ranStatus (e : Entry) (s : State) : Option Status := (ran e s).map (·.status)

/-! ## WellFormed refuses an ill-formed term, check by check -/

theorem payloadFits_fill (n : Nat) : payloadFits (fill n) = decide (n + 6 ≤ 512) := by
  simp [payloadFits, fill, Config.headerBytes, Config.maxFrame]
theorem lengthFieldFits_replicate (n : Nat) (b : Byte) :
    lengthFieldFits (List.replicate n b) = decide (n < 65536) := by simp [lengthFieldFits]

theorem test_wellFormed_cmdWr_too_long : (Instr.cmdWr 0x00 0x1234 (fill 507)).wellFormed = false :=
  (payloadFits_fill 507).trans (by decide)
theorem test_wellFormed_cmdRd_too_long : (Instr.cmdRd 0x00 0x1234 (fill 507)).wellFormed = false :=
  (payloadFits_fill 507).trans (by decide)
theorem test_wellFormed_payload_fits : (Instr.cmdRd 0x00 0x1234 (fill 506)).wellFormed = true :=
  (payloadFits_fill 506).trans (by decide)
theorem test_wellFormed_replyOk_flag : (Instr.replyOk 0x20 0x00 [] []).wellFormed = false := by decide
theorem test_wellFormed_replyErr_flag : (Instr.replyErr 0xDF 0x00 [] []).wellFormed = false := by decide
theorem test_wellFormed_reply_length :
    (Instr.replyOk 0x00 0x00 (List.replicate 65536 0) []).wellFormed = false := by
  rw [Instr.wellFormed, lengthFieldFits_replicate]; decide
theorem test_wellFormed_replyErr_length :
    (Instr.replyErr 0x20 0x00 (List.replicate 65536 0) []).wellFormed = false := by
  rw [Instr.wellFormed, lengthFieldFits_replicate]; decide
theorem test_wellFormed_chunk_short : (Instr.chunk (fill 63)).wellFormed = false := by decide
theorem test_wellFormed_chunk_long : (Instr.chunk (fill 65)).wellFormed = false := by decide
theorem test_wellFormed_chunk_none : (Instr.chunk []).wellFormed = false := by decide
set_option maxRecDepth 4000 in
/-- Chunk 0 announces two chunks, and a third follows. -/
theorem test_wellFormed_chunk_position :
    (Instr.chunk (chunkT4a ++ chunkT4b ++ chunkT4b)).wellFormed = false := by decide

/-! ## Decoding of words written out from the encodings (R80, R88, R92, R96, R99; request bytes: log 2) -/

theorem test_decode_ubuild : decode ⟨.op, [0b00000000, 0x01, 0x7F, 0xCD, 0xAB, 0x05, 0x06]⟩ =
    .ok (.ubuild .read 0x7F 0xABCD [0x05, 0x06]) := by rfl
theorem test_decode_user : decode ⟨.op, [0b00000001]⟩ = .ok .user := by rfl
theorem test_decode_uchunk : decode ⟨.op, [0b00000010]⟩ = .ok .uchunk := by rfl
theorem test_decode_uparse : decode ⟨.op, [0b00000011, 0xC0, 0x00]⟩ = .ok (.uparse [0xC0, 0x00]) := by rfl
theorem test_decode_upcmd : decode ⟨.op, [0b00000100]⟩ = .ok .upcmd := by rfl
theorem test_decode_sbuild : decode ⟨.op, [0b00000101, 0x03, 0x01, 0x02, 0x04]⟩ =
    .ok (.sbuild 0x03 0x01 0x02 0x04) := by rfl
theorem test_decode_sparse : decode ⟨.op, [0b00000110, 0x03, 0x55, 0xAA]⟩ = .ok (.sparse 0x03 [0x55, 0xAA]) := by
  rfl
theorem test_decode_setaddr : decode ⟨.op, [0b00000111, 0x2A]⟩ = .ok (.setaddr 0x2A) := by rfl
theorem test_decode_clr : decode ⟨.op, [0b00001000]⟩ = .ok .clr := by rfl
theorem test_decode_unassigned :
    [0b00001001, 0b00001010, 0b00001011, 0b00001100, 0b00001101, 0b00001110, 0b00001111].map
      (fun op => decode ⟨.op, [op]⟩) = unassigned.map .ok := by rfl
theorem test_decode_cmdWr :
    decode ⟨.usbCommand, [0b01000000, 0x03, 0b00000011, 0b00000000, 0b00110100, 0b00010010, 0x02]⟩ =
      .ok (.cmdWr 0x03 0x1234 [0x02]) := by rfl
theorem test_decode_cmdRd :
    decode ⟨.usbCommand, [0b11000000, 0x7F, 0b00000010, 0b00000000, 0b11001101, 0b10101011]⟩ =
      .ok (.cmdRd 0x7F 0xABCD []) := by rfl
theorem test_decode_replyOk :
    decode ⟨.usbReply, [0b11011111, 0x11, 0b00000010, 0b00000000, 0x01, 0x02, 0x09]⟩ =
      .ok (.replyOk 0xDF 0x11 [0x01, 0x02] [0x09]) := by rfl
theorem test_decode_replyErr : decode ⟨.usbReply, [0b00100000, 0x08, 0b00000000, 0b00000000]⟩ =
    .ok (.replyErr 0x20 0x08 [] []) := by rfl
theorem test_decode_chunk : decode ⟨.usbWireChunk, chunkT1⟩ = .ok (.chunk chunkT1) := by rfl
set_option maxRecDepth 4000 in
theorem test_decode_chunk_continuation : decode ⟨.usbWireChunk, chunkT4a ++ chunkT4b⟩ =
    .ok (.chunk (chunkT4a ++ chunkT4b)) := by rfl
theorem test_decode_serial :
    decode ⟨.serialFrame, [0b01010101, 0b10101010, 0x2A, 0x03, 0x01, 0x05, 0x07, 0x10, 0b11011010, 0b11000011]⟩ =
      .ok (.serial 0x2A 0x03 0x01 0x05 0x07 0x10) := by rfl

theorem test_refuse_no_op : decode ⟨.op, []⟩ = .error .noOpNumber := by rfl
theorem test_refuse_five_bits : decode ⟨.op, [0x10]⟩ = .error .opNotFourBits := by rfl
theorem test_refuse_operand_missing : decode ⟨.op, [0x07]⟩ = .error .wrongOperands := by rfl
theorem test_refuse_operand_extra : decode ⟨.op, [0x01, 0x00]⟩ = .error .wrongOperands := by rfl
theorem test_refuse_dir_not_a_bit : decode ⟨.op, [0x00, 0x02, 0x00, 0x34, 0x12]⟩ = .error .wrongOperands := by rfl
theorem test_refuse_flag : decode ⟨.usbCommand, [0xE0, 0x00, 0x02, 0x00, 0x34, 0x12]⟩ = .error .notCommandFlag := by
  rfl
theorem test_refuse_length :
    decode ⟨.usbCommand, [0x40, 0x00, 0x02, 0x00, 0x34, 0x12, 0x02]⟩ = .error .lengthMismatch := by rfl
theorem test_refuse_payload (pay : ByteString) (h : pay = fill 507) :
    decode ⟨.usbCommand, 0x40 :: 0x00 :: 0xFD :: 0x01 :: 0x34 :: 0x12 :: pay⟩ = .error .payloadTooLong := by
  have hp : payloadFits pay = false := by rw [h, payloadFits_fill]; decide
  simp [decode, decodeCommand, hp]
theorem test_refuse_short_command : decode ⟨.usbCommand, [0x40, 0x00, 0x02, 0x00, 0x34]⟩ = .error .shortFrame := by
  rfl
theorem test_refuse_short_reply : decode ⟨.usbReply, [0xC0, 0x00, 0x00]⟩ = .error .shortFrame := by rfl
theorem test_refuse_truncated : decode ⟨.usbReply, [0x00, 0x00, 0x02, 0x00, 0xAA]⟩ = .error .truncatedFrame := by rfl
theorem test_refuse_chunk : decode ⟨.usbWireChunk, bytesT1⟩ = .error .notChunk := by rfl
set_option maxRecDepth 4000 in
theorem test_refuse_chunk_position :
    decode ⟨.usbWireChunk, chunkT4a ++ chunkT4b ++ chunkT4b⟩ = .error .notChunk := by rfl
theorem test_refuse_header :
    decode ⟨.serialFrame, [0x54, 0xAA, 0x01, 0x03, 0x01, 0x00, 0x00, 0x04, 0xDA, 0xC3]⟩ =
      .error .notSerialFrame := by rfl
theorem test_refuse_tail :
    decode ⟨.serialFrame, [0x55, 0xAA, 0x01, 0x03, 0x01, 0x00, 0x00, 0x04, 0xDA, 0xC2]⟩ =
      .error .notSerialFrame := by rfl
theorem test_refuse_serial_length : decode ⟨.serialFrame, wireS1 ++ [0x00]⟩ = .error .notSerialFrame := by rfl

/-! ## The host's numbering (log 11) -/

theorem test_tableWord_ops :
    [0, 1, 2, 3, 4, 5, 6, 7, 8].map (decodeTableWord 8) =
      [some (.ubuild .write 0 0 []), some .user, some .uchunk, some (.uparse []), some .upcmd,
        some (.sbuild 0 0 0 0), some (.sparse 0 []), some (.setaddr 0), some .clr] := by rfl
theorem test_tableWord_unassigned :
    [9, 10, 11, 12, 13, 14, 15].map (decodeTableWord 8) = unassigned.map some := by rfl
theorem test_tableWord_commands : decodeTableWord 8 0x40 = some (.cmdWr 0 0 []) ∧
    decodeTableWord 8 0xC0 = some (.cmdRd 0 0 []) ∧
    decodeTableWord 48 0x40 = some (.cmdWr 0 0 []) ∧
    decodeTableWord 48 0x1234000300C0 = some (.cmdRd 0x00 0x1234 [0x00]) := ⟨rfl, rfl, rfl, rfl⟩
theorem test_tableWord_replies : decodeTableWord 8 0x20 = some (.replyErr 0x20 0 [] []) ∧
    decodeTableWord 32 0x0 = some (.replyOk 0x00 0 [] []) ∧
    decodeTableWord 32 0x00020120 = some (.replyErr 0x20 0x01 [0x00, 0x00] []) := ⟨rfl, rfl, rfl⟩
theorem test_tableWord_serial :
    decodeTableWord 80 0x55AA000000000000DAC3 = some (.serial 0 0 0 0 0 0) ∧
    decodeTableWord 80 0xC3DA000000000000AA55 = some (.serial 0 0 0 0 0 0) := ⟨rfl, rfl⟩
theorem test_tableWord_chunk : decodeTableWord 512 0x40 = some (.chunk (0x40 :: List.replicate 63 0)) := by rfl
theorem test_fetch_runs_first (s : State) (h : s.pending = []) :
    step (s.withFetchWord 8 0x07) = exec (.setaddr 0x00) s := by
  rcases s with ⟨a, st, f, sb, cq, r, stx, srx, p⟩
  cases h
  rfl

/-! ## One step, against spec/95_test_vectors.md -/

theorem test_ubuild_T1 : (ran ⟨.op, [0x00, 0x00, 0x00, 0x34, 0x12, 0x02]⟩ fresh).map (·.f) =
    some (some frameT1) := by rfl
theorem test_ubuild_T15 : (ran ⟨.op, [0x00, 0x00, 0x01, 0x34, 0x12, 0x01]⟩ full).map
    (fun t => (t.sb, t.cq, t.r)) = some (none, none, some replyQ10) := by rfl
theorem test_user_T1 : (ran ⟨.op, [0x01]⟩ { fresh with f := some frameT1 }).map (·.sb) =
    some (some serializedT1) := by rfl
theorem test_user_T12 : ranStatus ⟨.op, [0x01]⟩ fresh = some .notReady := by rfl
theorem test_uchunk_T1 : (ran ⟨.op, [0x02]⟩ { fresh with sb := some serializedT1 }).map (·.cq) =
    some (some ⟨1, [chunkT1]⟩) := by decide
theorem test_uchunk_T4 : (ran ⟨.op, [0x02]⟩ { fresh with sb := some ⟨65, List.replicate 64 0x11 ++ [0x3A]⟩ }).map
    (·.cq) = some (some ⟨2, [List.replicate 64 0x11, 0x3A :: List.replicate 63 0]⟩) := by decide
theorem test_uparse_Q9 : (ran ⟨.op, [0x03, 0xE0, 0x11, 0x03, 0x00, 0x01, 0x02, 0x03, 0x09, 0x09]⟩ fresh).map (·.r) =
    some (some ⟨0xE0, true, 0x11, 3, [0x01, 0x02, 0x03]⟩) := by rfl
theorem test_uparse_Q8 : ranStatus ⟨.op, [0x03, 0x00, 0x00, 0xFF, 0xFF]⟩ fresh = some .truncatedPayload := by rfl
theorem test_upcmd_V8 :
    (ran ⟨.op, [0x04]⟩ { full with r := some ⟨0xE0, true, 0x11, 3, [0x01, 0x02, 0x03]⟩ }).map
      (fun t => (t.f, t.sb, t.cq)) = some (some ⟨.read, 0x11, 0x0201, 1, [0x03]⟩, none, none) := by rfl
theorem test_upcmd_V3 : ranStatus ⟨.op, [0x04]⟩ { full with r := some ⟨0x00, false, 0x00, 1, [0xAA]⟩ } =
    some .lengthTooSmall := by rfl
theorem test_sbuild_S2 : (ran ⟨.op, [0x05, 0xFF, 0xFF, 0xFF, 0xFF]⟩ fresh).map (·.stx) =
    some (some ⟨[0x55, 0xAA, 0x01, 0xFF, 0xFF, 0xFF, 0xFF, 0xFC, 0xDA, 0xC3]⟩) := by rfl
theorem test_sbuild_S3 : (ran ⟨.op, [0x05, 0x80, 0x80, 0x00, 0x00]⟩ { fresh with saddr := 0x2A }).map (·.stx) =
    some (some ⟨[0x55, 0xAA, 0x2A, 0x80, 0x80, 0x00, 0x00, 0x00, 0xDA, 0xC3]⟩) := by rfl
theorem test_sparse_S17 :
    (ran ⟨.op, [0x06, 0x03, 0x55, 0xAA, 0x01, 0x03, 0x02, 0xFF, 0x00, 0x04, 0xDA, 0xC3]⟩ fresh).map (·.srx) =
      some (some ⟨0x01, 0x03, 0x02, 0xFF, 0x00, 0x04⟩) := by rfl
theorem test_sparse_S12 :
    (ran ⟨.op, [0x06, 0x04, 0x55, 0xAA, 0x01, 0x03, 0x01, 0x00, 0x00, 0x04, 0xDA, 0xC3]⟩ full).map
      (fun t => (t.status, t.srx)) = some (.invalidResponse, none) := by rfl
theorem test_setaddr_Y2 : (ran ⟨.op, [0x07, 0x02]⟩ full).map (fun t => (t.saddr, t.stx)) =
    some (0x02, some ⟨wireS1⟩) := by rfl
theorem test_setaddr_Y6 : ranStatus ⟨.op, [0x07, 0x00]⟩ { fresh with status := .badRequest } = some .ok := by rfl
theorem test_clr_Y3 : ran ⟨.op, [0x08]⟩ full = some fresh := by rfl
theorem test_unassigned_Y4 : ran ⟨.op, [0x0F]⟩ full = some { full with status := .badRequest } := by rfl
theorem test_unassigned_Y5 : ran ⟨.op, [0x09]⟩ full = some { full with status := .badRequest } := by rfl
theorem test_cmdWr_T1 : (ran ⟨.usbCommand, bytesT1⟩ fresh).map (fun t => (t.f, t.sb)) =
    some (some frameT1, some serializedT1) := by rfl
theorem test_cmdRd_T2 : (ran ⟨.usbCommand, [0xC0, 0x7F, 0x02, 0x00, 0xCD, 0xAB]⟩ fresh).map (·.f) =
    some (some ⟨.read, 0x7F, 0xABCD, 0, []⟩) := by rfl
theorem test_replyOk_Q12 : (ran ⟨.usbReply, [0xDF, 0x00, 0x00, 0x00]⟩ fresh).map (·.r) =
    some (some ⟨0xDF, false, 0x00, 0, []⟩) := by rfl
theorem test_replyErr_P3 : (ran ⟨.usbReply, [0x20, 0x08, 0x00, 0x00]⟩ fresh).map (fun t => (t.status, t.r)) =
    some (.ok, some ⟨0x20, true, 0x08, 0, []⟩) := by rfl
theorem test_chunk_T1 : (ran ⟨.usbWireChunk, chunkT1⟩ fresh).map (fun t => (t.f, t.sb, t.cq)) =
    some (some frameT1, some serializedT1, some ⟨1, [chunkT1]⟩) := by decide
/-- Chunk 0 of T4 announces one more chunk (R108); the next one is a continuation, by position. -/
theorem test_chunk_T4_first : ran ⟨.usbWireChunk, chunkT4a⟩ { full with status := .badRequest } = some full := by
  decide
set_option maxRecDepth 4000 in
theorem test_chunk_T4_second : (ran ⟨.usbWireChunk, chunkT4a ++ chunkT4b⟩ full).map (fun t => (t.f, t.cq)) =
    some (some ⟨.read, 0x02, 0x1234, 59, List.replicate 58 0x11 ++ [0x3A]⟩, some ⟨2, [chunkT4a, chunkT4b]⟩) := by
  rfl
set_option maxRecDepth 4000 in
/-- The reader of T4's chunks, and of a T1 chunk after them (R63). -/
theorem test_chunkRequests_T4_T1 : chunkRequests [] [chunkT4a, chunkT4b, chunkT1] =
    [.chunk chunkT4a, .chunk (chunkT4a ++ chunkT4b), .chunk chunkT1] := by rfl
theorem test_serial_S6 : (ran ⟨.serialFrame, wireS1⟩ fresh).map (·.srx) = some (some fieldsS6) := by rfl
theorem test_serial_S20 : ranStatus ⟨.serialFrame, wireS1⟩ { fresh with saddr := 0x2A } = some .invalidResponse := by
  rfl
theorem test_reject_Q5 : ranStatus ⟨.usbReply, [0x00, 0x00, 0x02, 0x00, 0xAA]⟩ fresh = some .truncatedPayload := by rfl
theorem test_response_T1 : stepResponse { fresh with f := some frameT1, pending := [⟨.op, [0x01]⟩] } =
    some ⟨.ok, some (.serialized serializedT1)⟩ := by rfl
theorem test_idle : step fresh = .refused .noRequest := by rfl
theorem test_pseudo_P1 : (match runPseudo (uwrite 0x00 0x1234 [0x02]) fresh with
    | .next t => some (t.f, t.sb, t.cq)
    | _ => none) = some (some frameT1, some serializedT1, some ⟨1, [chunkT1]⟩) := by decide

theorem test_resetSystem : resetSystem [0x01, 0x2A] = [fresh, State.resetWith 0x2A] := by rfl
theorem test_resetInstance_second : resetInstance 1 0x2A [full, full] = [full, State.resetWith 0x2A] := by rfl

/-! ## Witnesses: the hypotheses of the obligations can be met, at the boundaries of their ranges -/

theorem frameT1_ok : FrameOk frameT1 := ⟨rfl, by decide⟩
theorem serializedT1_of : SerializedOf frameT1 serializedT1 where
  total := rfl
  length := rfl
  flag := rfl
  seq := rfl
  len := ⟨_, _, rfl, rfl, rfl⟩
  cmd := ⟨_, _, rfl, rfl, rfl⟩
  payload := by intro j hj; obtain rfl : j = 0 := by simp [frameT1] at hj; exact hj
                rfl
theorem chunkT1_of : ChunksOf serializedT1 ⟨1, [chunkT1]⟩ where
  count := rfl
  length := rfl
  bytes := by
    intro k hk
    obtain rfl : k = 0 := by simpa using hk
    exact ⟨chunkT1, rfl, rfl, by decide⟩
theorem replyQ10_ok : ReplyOk replyQ10 := ⟨rfl, rfl⟩
theorem checksumS1 : ChecksumOk 0x03 0x01 0x00 0x00 0x04 := by simp [ChecksumOk]
/-- A state in which every group is valid meets the invariant (BuffersHoldExactlyUsedBytes). -/
theorem witness_inv : Inv full where
  frame := by intro f h; cases h; exact frameT1_ok
  serialized := by intro sb h; cases h; exact ⟨_, rfl, serializedT1_of⟩
  chunks := by intro cq h; cases h; exact ⟨_, rfl, chunkT1_of⟩
  reply := by intro r h; cases h; exact replyQ10_ok
  transmit := by intro x h; cases h; exact ⟨_, _, _, _, _, _, rfl, checksumS1⟩
  receive := by intro x h; cases h; exact checksumS1

theorem length_fill (n : Nat) : (fill n).length = n := List.length_replicate

/-- The greatest frame. -/
def frameT8 : CommandFrame := ⟨.write, 0xFF, 0xFFFF, 506, fill 506⟩
/-- A reply whose LEN is `n`. -/
def replyOf (n : Nat) : ReplyFrame := ⟨0x40, false, 0x00, BitVec.ofNat 16 n, fill n⟩

/-- For UbuildBuildsOrRejects, CommandRowsProduceTheirFrame, ChunksConcatenateToFrame, FirstChunkHoldsHeader and
RoundTripRestoresFrame: both ends of the payload that fits, and the first that does not. -/
theorem witness_payload_lengths : (fill 0).length + 6 ≤ 512 ∧ (fill 506).length + 6 ≤ 512 ∧
    512 < (fill 507).length + 6 := by simp only [length_fill]; decide
theorem witness_UserSerializesFrame : fresh.f = none ∧ full.f = some frameT1 ∧ FrameOk frameT1 ∧ FrameOk frameT8 :=
  ⟨rfl, rfl, frameT1_ok, ⟨length_fill 506, by decide⟩⟩
theorem witness_UchunkCutsSerializedBytes : fresh.sb = none ∧ full.sb = some serializedT1 ∧
    serializedT1.b.length = serializedT1.t := ⟨rfl, rfl, rfl⟩
theorem witness_UparseParsesReply : [(0xC0 : Byte), 0x00, 0x00].length < 4 ∧
    ([] : ByteString).length < (0x01 : Byte).toNat + 256 * (0x00 : Byte).toNat ∧
    (0x01 : Byte).toNat + 256 * (0x00 : Byte).toNat ≤ [(0x0A : Byte)].length ∧
    (fill 255).length < (0x00 : Byte).toNat + 256 * (0x01 : Byte).toNat ∧
    (0x00 : Byte).toNat + 256 * (0x01 : Byte).toNat ≤ (fill 256).length := by
  simp only [length_fill]; decide
theorem replyOf_ok {n : Nat} (h : n < 65536) : ReplyOk (replyOf n) :=
  ⟨by rw [replyOf, length_fill, BitVec.toNat_ofNat]; omega, show false = (0x40 : Byte).getLsbD 5 by decide⟩
theorem witness_UpcmdGivesCommandView : fresh.r = none ∧ ReplyOk (replyOf 0) ∧ ReplyOk (replyOf 1) ∧
    ReplyOk (replyOf 2) ∧ ReplyOk (replyOf 508) ∧ ReplyOk (replyOf 509) ∧ (replyOf 1).len.toNat < 2 ∧
    2 ≤ (replyOf 2).len.toNat ∧ (replyOf 508).len.toNat - 2 + 6 ≤ 512 ∧ 512 < (replyOf 509).len.toNat - 2 + 6 :=
  ⟨rfl, replyOf_ok (by decide), replyOf_ok (by decide), replyOf_ok (by decide), replyOf_ok (by decide),
    replyOf_ok (by decide), by simp [replyOf], by simp [replyOf], by simp [replyOf], by simp [replyOf]⟩
theorem witness_SparseValidatesWindow_bad : ∀ d0 d1 d2 ck : Byte,
    wireS1.set 7 0x05 = serialWire fresh.saddr 0x03 d0 d1 d2 ck → ¬ ChecksumOk 0x03 d0 d1 d2 ck := by
  intro d0 d1 d2 ck h
  simp only [wireS1, serialWire, List.set, List.cons.injEq] at h
  obtain ⟨-, -, -, -, rfl, rfl, rfl, rfl, -⟩ := h
  simp [ChecksumOk]
theorem witness_SparseValidatesWindow_long : ∀ d0 d1 d2 ck : Byte,
    wireS1 ++ [0x00] = serialWire fresh.saddr 0x03 d0 d1 d2 ck → ¬ ChecksumOk 0x03 d0 d1 d2 ck := by
  intro d0 d1 d2 ck h
  simp [wireS1, serialWire] at h
theorem witness_SparseValidatesWindow : ChecksumOk 0x03 0x01 0x00 0x00 0x04 ∧ ChecksumOk 0xFF 0xFF 0xFF 0xFF 0xFC :=
  ⟨checksumS1, by simp [ChecksumOk]⟩
theorem witness_UnassignedNumbersAreBadRequest : Instr.unassigned9 ∈ unassigned ∧ Instr.unassignedF ∈ unassigned := by
  decide
theorem witness_MalformedRequestsAreBadRequest : ∀ bytes ∈ [[], [0x10], [0x07], [0x01, 0x00]],
    ∀ i, decode ⟨.op, bytes⟩ ≠ .ok i := by
  simp only [List.mem_cons, List.not_mem_nil, or_false]
  rintro bytes (rfl | rfl | rfl | rfl) i h <;> cases h
theorem witness_MalformedWireEntriesAreAnswered :
    (∀ i, decode ⟨.usbCommand, []⟩ ≠ .ok i) ∧ (∀ i, decode ⟨.usbWireChunk, []⟩ ≠ .ok i) ∧
    (∀ i, decode ⟨.usbReply, [0xC0, 0x00, 0x00]⟩ ≠ .ok i) ∧
    (∀ i, decode ⟨.usbReply, [0x00, 0x00, 0x01, 0x00]⟩ ≠ .ok i) ∧
    (∀ i, decode ⟨.serialFrame, wireS1 ++ [0x00]⟩ ≠ .ok i) := by
  refine ⟨?_, ?_, ?_, ?_, ?_⟩ <;> intro i h <;> cases h
set_option maxRecDepth 4000 in
/-- LEN 60 announces no further chunk and LEN 61 one; the second chunk then completes the frame. -/
theorem witness_ChunksAreReadByPosition :
    (4 + ((0x3C : Byte).toNat + 256 * (0x00 : Byte).toNat) + 63) / 64 ≤
      (0x40 :: 0x01 :: 0x3C :: 0x00 :: fill 60).length / 64 ∧
    chunkT4a = 0xC0 :: 0x02 :: 0x3D :: 0x00 :: chunkT4a.drop 4 ∧
    chunkT4a.length / 64 < (4 + ((0x3D : Byte).toNat + 256 * (0x00 : Byte).toNat) + 63) / 64 ∧
    (4 + ((0x3D : Byte).toNat + 256 * (0x00 : Byte).toNat) + 63) / 64 ≤ (chunkT4a ++ chunkT4b).length / 64 := by
  decide
set_option maxRecDepth 4000 in
/-- The greatest LEN announces 1025 chunks, 1024 of them later ones. -/
theorem witness_ReaderPlacesChunksByPosition :
    (0x40 :: 0x01 :: 0x3C :: 0x00 :: fill 60).length = 64 ∧
    ([] : List ByteString).length = (4 + ((0x3C : Byte).toNat + 256 * (0x00 : Byte).toNat) + 63) / 64 - 1 ∧
    (0xC0 :: 0x02 :: 0x3D :: 0x00 :: chunkT4a.drop 4).length = 64 ∧ (∀ w ∈ [chunkT4b], w.length = 64) ∧
    [chunkT4b].length = (4 + ((0x3D : Byte).toNat + 256 * (0x00 : Byte).toNat) + 63) / 64 - 1 ∧
    (List.replicate 1024 (fill 64)).length = (4 + ((0xFF : Byte).toNat + 256 * (0xFF : Byte).toNat) + 63) / 64 - 1 := by
  rw [List.length_replicate]; decide
theorem witness_ChunksOfFrameAreReproduced : FrameOk frameT1 ∧ SerializedOf frameT1 serializedT1 ∧
    ChunksOf serializedT1 ⟨1, [chunkT1]⟩ ∧
    FrameOk frameT8 ∧ SerializedOf frameT8 (serializeFrame frameT8) ∧
    ChunksOf (serializeFrame frameT8) (cutChunks (serializeFrame frameT8)) := by
  have hf : FrameOk frameT8 := ⟨length_fill 506, by decide⟩
  exact ⟨frameT1_ok, serializedT1_of, chunkT1_of, hf, serializedOf_serializeFrame hf,
    chunksOf_cutChunks (length_serializeFrame_b hf)⟩
theorem witness_WireRowsAbbreviateRequests : completesFrame chunkT1 = true ∧ completesFrame chunkT4a = false ∧
    completesFrame (chunkT4a ++ chunkT4b) = true := by decide
theorem witness_ReplyRowsAreParsed : (List.replicate 65535 (0 : Byte)).length < 65536 ∧
    (0xDF : Byte).getLsbD 5 = false ∧ (0x20 : Byte).getLsbD 5 = true :=
  ⟨by rw [List.length_replicate]; omega, by decide, by decide⟩
theorem witness_SingleChunkIsReproduced (n : Nat) (h : n ≤ 58) : (fill n).length ≤ 58 ∧ ∃ frame : ByteString,
    frame.length = (fill n).length + 6 ∧
    SerializedOf ⟨.write, 0x01, 0x1234, (fill n).length, fill n⟩ ⟨(fill n).length + 6, frame⟩ := by
  have hl : (fill n).length = n := by simp [fill]
  have hf : FrameOk ⟨.write, 0x01, 0x1234, (fill n).length, fill n⟩ := ⟨rfl, by show (fill n).length + 6 ≤ 512; omega⟩
  exact ⟨by omega, _, length_serializeFrame_b hf, serializedOf_serializeFrame hf⟩
theorem witness_SerialRowIsValidated : (0x01 : Byte) = fresh.saddr ∧ ChecksumOk 0x03 0x01 0x00 0x00 0x04 ∧
    ¬ ((0x02 : Byte) = fresh.saddr ∧ ChecksumOk 0x03 0x01 0x00 0x00 0x04) ∧
    ¬ ((0x01 : Byte) = fresh.saddr ∧ ChecksumOk 0x03 0x01 0x00 0x00 0x05) :=
  ⟨rfl, checksumS1, by simp [fresh, State.resetWith], by simp [ChecksumOk]⟩
/-- 59 bytes have one later chunk, 506 bytes seven. -/
theorem witness_FirstChunkHoldsHeader : (1 : Nat) < ((fill 59).length + 6 + 63) / 64 ∧
    (7 : Nat) < ((fill 506).length + 6 + 63) / 64 := by
  simp only [length_fill]; decide
theorem witness_FailedBuildSendsNothing : ∃ t u, exec (.ubuild .write 0x00 0x0000 (fill 507)) fresh = .next t ∧
    t.status ≠ .ok ∧ noNewFrame [.clr, .upcmd, .uparse bytesT1, .chunk chunkT4a] t ∧
    runRequests [.clr, .upcmd, .uparse bytesT1, .chunk chunkT4a] t = .next u := by
  have h : exec (.ubuild .write 0x00 0x0000 (fill 507)) fresh =
      .next { fresh with f := none, sb := none, cq := none, status := .payloadTooLarge } :=
    congrArg Host.Outcome.next (ubuild_of_tooLong fresh (by rw [length_fill]; decide) .write 0x00 0x0000)
  refine ⟨_, _, h, by decide, ?_, rfl⟩
  intro t1 h1
  refine ⟨fun h => (by cases h), fun t2 h2 => ?_⟩
  cases h1
  cases h2
  refine ⟨fun _ => by decide, fun t3 h3 => ⟨fun h => (by cases h), fun t4 h4 => ?_⟩⟩
  cases h3
  cases h4
  exact ⟨fun h => absurd h (by decide), trivial⟩
theorem witness_SixtyBytesTakeTwoChunks : (fill 60).length = 60 := by decide
theorem witness_SerializerEmitsTwoFlags : exec .user full = .next { full with cq := none } := rfl
theorem witness_UserWritesRead : exec .user { fresh with f := some { frameT1 with dir := .read } } = .next
    { fresh with f := some { frameT1 with dir := .read }, sb := some ⟨7, 0xC0 :: bytesT1.tail⟩ } := rfl
theorem witness_TrailingBytesAreIgnored : exec (.uparse bytesT1) fresh = .next { fresh with r := some replyQ10 } ∧
    runPseudo (usend .write 0x00 0x1234 [0x02]) fresh = .next { fresh with
      f := some frameT1, sb := some serializedT1, cq := some (cutChunks serializedT1) } := ⟨rfl, rfl⟩
theorem witness_ShorterStringsFailToParse : exec (.uparse bytesT1) fresh = .next { fresh with r := some replyQ10 } ∧
    (3 : Nat) < 4 ∧ (4 : Nat) < 4 + replyQ10.len.toNat ∧ (6 : Nat) < 4 + replyQ10.len.toNat :=
  ⟨rfl, by decide, by decide, by decide⟩
/-- V1 with a flag byte that is returned, V8 with one that is not. -/
theorem witness_ReserializationReturnsBytes :
    exec (.uparse bytesT1) fresh = .next { fresh with r := some replyQ10 } ∧
    exec .upcmd { fresh with r := some replyQ10 } = .next { fresh with r := some replyQ10, f := some frameT1 } ∧
    (∃ t r u, exec (.uparse [0xE0, 0x11, 0x03, 0x00, 0x01, 0x02, 0x03, 0x09, 0x09]) fresh = .next t ∧
      t.status = .ok ∧ t.r = some r ∧ exec .upcmd t = .next u ∧ u.status = .ok) :=
  ⟨rfl, rfl, _, _, _, rfl, rfl, rfl, rfl, rfl⟩
theorem witness_OneChangedByteIsDetected : exec (.sparse 0x03 wireS1) fresh = .next { fresh with srx := some fieldsS6 } ∧
    wireS1[0]? ≠ some 0x54 ∧ wireS1[9]? ≠ some 0xC2 := ⟨rfl, by decide, by decide⟩
theorem witness_SetaddrBetweenBreaksReply :
    exec (.sbuild 0x03 0x01 0x00 0x00) fresh = .next { fresh with stx := some ⟨wireS1⟩ } ∧
    exec (.setaddr 0x02) { fresh with stx := some ⟨wireS1⟩ } =
      .next { fresh with stx := some ⟨wireS1⟩, saddr := 0x02 } ∧ (0x02 : Byte) ≠ fresh.saddr :=
  ⟨rfl, rfl, by decide⟩
theorem witness_SerialAndUsbAreIndependent : isUsb .user = true ∧ isSerial (.sparse 0x03 wireS1) = true ∧
    ∃ a b c d, exec .user full = .next a ∧ exec (.sparse 0x03 wireS1) a = .next b ∧
      exec (.sparse 0x03 wireS1) full = .next c ∧ exec .user c = .next d :=
  ⟨rfl, rfl, _, _, _, _, rfl, rfl, rfl, rfl⟩
/-- Every instruction answers a next state, so a premise `exec i s = .next t` alone (ResponseCopiesWrittenGroup)
is met for every `i` and `s`. -/
theorem witness_exec : exec .upcmd full = .next (after .upcmd full) ∧ exec .clr full = .next fresh :=
  ⟨exec_eq_next .upcmd full, rfl⟩
theorem witness_StatusIsNotSticky : isOperation .user = true ∧ isOperation .unassignedF = true := by decide
/-- For FailureEntryIsPrecise, StatusesAreRaisedByTheirOperations and SourceFailuresExactlyWhen: each failure is
reached by an operation that the spec names for it (section 2.6). -/
theorem witness_FailureEntryIsPrecise :
    (after (.ubuild .write 0x00 0x0000 (fill 507)) full).status = .payloadTooLarge ∧
    (after (.uparse []) full).status = .shortReply ∧
    (after (.uparse [0x00, 0x00, 0x02, 0x00, 0xAA]) full).status = .truncatedPayload ∧
    (after (.sparse 0x03 []) full).status = .invalidResponse ∧
    (after .upcmd { full with r := some (replyOf 1) }).status = .lengthTooSmall ∧
    (after .user fresh).status = .notReady ∧ (after .unassignedF full).status = .badRequest :=
  ⟨by show (ubuild .write 0x00 0x0000 (fill 507) full).status = _
      rw [ubuild_of_tooLong full (by rw [length_fill]; decide)], rfl, rfl, rfl, rfl, rfl, rfl⟩
/-- For OutOfOrderIsNotReady and UpcmdOverwritesTransmitFrame. -/
theorem witness_OutOfOrderIsNotReady : fresh.valid .F = false ∧ fresh.valid .SB = false ∧ fresh.valid .R = false ∧
    full.valid .F = true ∧ full.valid .SB = true ∧ full.valid .R = true := ⟨rfl, rfl, rfl, rfl, rfl, rfl⟩
/-- Each operation ends OK somewhere, the premise of the clauses on its value. -/
theorem witness_ResponseCopiesWrittenGroup :
    [Instr.ubuild .write 0x00 0x1234 [0x02], .upcmd, .user, .uchunk, .uparse bytesT1, .sbuild 0x03 0x01 0x00 0x00,
      .sparse 0x03 wireS1, .setaddr 0x02, .clr].map (fun i => (after i full).status) = List.replicate 9 .ok := by rfl
/-- Two states that agree on the items the operation may read and differ in others. -/
theorem witness_OperationsReadOnlyNamedState : full ≠ { fresh with f := full.f } ∧
    full.f = ({ fresh with f := full.f } : State).f ∧ full.sb = ({ fresh with sb := full.sb } : State).sb ∧
    full.r = ({ fresh with r := full.r } : State).r ∧ full.saddr = fresh.saddr ∧
    (after .user full).status ≠ .notReady := ⟨by decide, rfl, rfl, rfl, rfl, by decide⟩
theorem witness_InstructionsWriteOnlyTheirGroups : Group.F ∉ writes .user ∧ spaceGroup .fPay ∉ writes .user ∧
    (∀ a, Instr.user ≠ .setaddr a) ∧ full.readByte .fPay 0 = some 0x02 ∧ full.readByte .fPay 1 = none :=
  ⟨by decide, by decide, (fun _ h => by cases h), rfl, rfl⟩
theorem witness_StoredBytesReadBack : (after (.ubuild .write 0x00 0x1234 [0x02]) full).status = .ok ∧
    full.f = some frameT1 ∧ FrameOk frameT1 ∧ full.sb = some serializedT1 ∧ (after (.uparse bytesT1) full).status = .ok ∧
    (after (.uparse bytesT1) full).r = some replyQ10 ∧ full.r = some replyQ10 ∧ ReplyOk replyQ10 ∧
    (after .upcmd full).status = .ok := ⟨rfl, rfl, frameT1_ok, rfl, rfl, rfl, rfl, replyQ10_ok, rfl⟩
theorem witness_FrameInvariantIsKept : ∀ f, full.f = some f → f.n + 6 ≤ 512 := by
  intro f h; cases h; decide
/-- For StepKeepsInvariant, StepTakesOneRequest and RunServesEveryRequest. -/
theorem witness_StepKeepsInvariant : ∃ t, Inv { full with pending := [⟨.op, [0x02]⟩] } ∧
    step { full with pending := [⟨.op, [0x02]⟩] } = .next t :=
  ⟨_, ⟨witness_inv.frame, witness_inv.serialized, witness_inv.chunks, witness_inv.reply, witness_inv.transmit,
    witness_inv.receive⟩, rfl⟩
theorem witness_StepRunsDecodedInstruction : ({ full with pending := [⟨.op, [0x04]⟩] } : State).pending = [⟨.op, [0x04]⟩] ∧
    decode ⟨.op, [0x04]⟩ = .ok .upcmd ∧ full.pending = [] := ⟨rfl, rfl, rfl⟩
theorem witness_InstancesShareNoState : ∃ next,
    ([{ full with pending := [⟨.op, [0x08]⟩] }, fresh] : System)[0]? = some { full with pending := [⟨.op, [0x08]⟩] } ∧
    ([{ full with pending := [⟨.op, [0x08]⟩] }, full] : System)[0]? = some { full with pending := [⟨.op, [0x08]⟩] } ∧
    stepInstance 0 [{ full with pending := [⟨.op, [0x08]⟩] }, fresh] = .next next := ⟨_, rfl, rfl, rfl⟩
/-- Instance 1 takes a step while instance 0 is reset. -/
theorem witness_InstancesAreResetOnTheirOwn : 0 < ([full, full] : System).length ∧ (1 : Nat) ≠ 0 ∧
    1 < ([full, full] : System).length ∧ ∃ next,
      stepInstance 1 [full, { full with pending := [⟨.op, [0x08]⟩] }] = .next next :=
  ⟨by decide, by decide, by decide, _, rfl⟩
/-- Two states given field by field, with every group valid and with none. -/
theorem witness_TenItemsAreTheWholeState : ∀ s ∈ [full, fresh], s.saddr = ({ s with pending := [⟨.op, [0x01]⟩] } : State).saddr ∧
    s.status = ({ s with pending := [⟨.op, [0x01]⟩] } : State).status ∧
    (∀ g, s.valid g = ({ s with pending := [⟨.op, [0x01]⟩] } : State).valid g ∧
      s.groupValue g = ({ s with pending := [⟨.op, [0x01]⟩] } : State).groupValue g) ∧
    exec .user s = .next (after .user s) :=
  fun s _ => ⟨rfl, rfl, fun g => by cases g <;> exact ⟨rfl, rfl⟩, exec_eq_next .user s⟩
theorem witness_DecodeOfEncode : (Instr.cmdWr 0x00 0x1234 (fill 58)).WellFormed ∧ (Instr.replyOk 0xDF 0x00 [] []).WellFormed ∧
    (Instr.replyErr 0x20 0x00 [] []).WellFormed ∧ (Instr.chunk chunkT1).WellFormed ∧
    (Instr.chunk (chunkT4a ++ chunkT4b)).WellFormed := by decide
theorem witness_EncodeOfDecode : decode ⟨.usbCommand, bytesT1⟩ = .ok (.cmdWr 0x00 0x1234 [0x02]) := rfl
theorem witness_OperationNumbersSelect : decode ⟨.op, [0x0F]⟩ = .ok .unassignedF ∧ 16 ≤ (0x10 : Byte).toNat :=
  ⟨rfl, by decide⟩

end Sys2Proof.Tests
end

section
/-! The state of the block (R20 to R26, R38): what an operation takes from the state it runs on, and which
operations make a frame. -/

namespace Sys2Proof.Machine

open Safety

/-! ## An operation's effect as a function of its operands and of the item it reads -/

/-- UBUILD writes the same F and STATUS in every state (R120). -/
theorem exists_ubuild_eq (dir : Dir) (seq : Byte) (cmd : Half) (pay : ByteString) :
    ∃ f st, ∀ s : State,
      ubuild dir seq cmd pay s = { s with f := f, sb := none, cq := none, status := st } := by
  rcases Nat.lt_or_ge 512 (pay.length + 6) with h | h
  · exact ⟨_, _, fun s => ubuild_of_tooLong s h dir seq cmd⟩
  · exact ⟨_, _, fun s => ubuild_of_fits s h dir seq cmd⟩

/-- UPARSE writes the same R and STATUS in every state (R140). -/
theorem exists_uparse_eq (rx : ByteString) :
    ∃ r st, ∀ s : State, uparse rx s = { s with r := r, status := st } := by
  rcases received_cases rx with h | ⟨flag, seq, l0, l1, rest, rfl⟩
  · exact ⟨_, _, fun s => uparse_of_short s h⟩
  · rcases Nat.lt_or_ge rest.length (l0.toNat + 256 * l1.toNat) with h | h
    · exact ⟨_, _, fun s => uparse_of_truncated s flag seq h⟩
    · exact ⟨_, _, fun s => uparse_of_whole s flag seq h⟩

/-- UPCMD writes the same F and STATUS in all states that hold the same valid R (R141). -/
theorem exists_upcmd_eq (r : ReplyFrame) :
    ∃ f st, ∀ s : State, s.r = some r →
      upcmd s = { s with f := f, sb := none, cq := none, status := st } := by
  rcases Nat.lt_or_ge r.len.toNat 2 with h2 | h2
  · exact ⟨_, _, fun s hr => upcmd_of_lengthTooSmall s hr h2⟩
  · rcases Nat.lt_or_ge 508 r.len.toNat with h508 | h508
    · exact ⟨_, _, fun s hr => upcmd_of_payloadTooLarge s hr h508⟩
    · exact ⟨_, _, fun s hr => upcmd_of_fits s hr h2 h508⟩

/-- SPARSE writes the same SRX and STATUS in all states with the same SADDR (R161). -/
theorem exists_sparse_eq (saddr efc : Byte) (rx : ByteString) :
    ∃ x st, ∀ s : State, s.saddr = saddr → sparse efc rx s = { s with srx := x, status := st } := by
  cases hx : validSerialFields saddr efc rx with
  | none => exact ⟨_, _, fun s hs => sparse_of_none s (hs ▸ hx)⟩
  | some x => exact ⟨_, _, fun s hs => sparse_of_some s (hs ▸ hx)⟩

/-! ## Two states that a request left, compared on what the request shows of them (R23) -/

/-- Two states have the same STATUS and, unless it is NotReady, the same value in every group that request `i`
writes. -/
structure SameAnswer (i : Instr) (t t' : State) : Prop where
  status : t.status = t'.status
  groups : t.status ≠ .notReady → ∀ g ∈ writes i, t.groupValue g = t'.groupValue g

/-- A response copies a group that its request writes (R97). -/
theorem mem_writes_of_writtenGroup {i : Instr} {g : Group} (h : writtenGroup i = some g) : g ∈ writes i := by
  cases i <;> simp_all [writtenGroup, writes]

theorem SameAnswer.responseOf_eq {i : Instr} {t t' : State} (h : SameAnswer i t t') :
    responseOf i t = responseOf i t' := by
  have hvalue : t.status = .ok → (writtenGroup i).bind t.groupValue = (writtenGroup i).bind t'.groupValue := by
    intro hok
    cases hg : writtenGroup i with
    | none => rfl
    | some g => exact h.groups (by simp [hok]) g (mem_writes_of_writtenGroup hg)
  by_cases hok : t.status = .ok
  · simp [responseOf, ← h.status, hok, hvalue hok]
  · simp [responseOf, ← h.status, hok]

/-- A NotReady answer shows STATUS only (R226 (b)). -/
theorem SameAnswer.of_notReady {i : Instr} {t t' : State} (h : t.status = .notReady)
    (h' : t'.status = .notReady) : SameAnswer i t t' :=
  ⟨h.trans h'.symm, fun hne => absurd h hne⟩

section

variable (s s' : State)

theorem sameAnswer_ubuild (dir : Dir) (seq : Byte) (cmd : Half) (pay : ByteString) :
    SameAnswer (.ubuild dir seq cmd pay) (ubuild dir seq cmd pay s) (ubuild dir seq cmd pay s') := by
  obtain ⟨f, st, h⟩ := exists_ubuild_eq dir seq cmd pay
  rw [h s, h s']
  exact ⟨rfl, by simp [writes, State.groupValue]⟩

theorem sameAnswer_uparse (rx : ByteString) : SameAnswer (.uparse rx) (uparse rx s) (uparse rx s') := by
  obtain ⟨r, st, h⟩ := exists_uparse_eq rx
  rw [h s, h s']
  exact ⟨rfl, by simp [writes, State.groupValue]⟩

theorem sameAnswer_setaddr (a : Byte) : SameAnswer (.setaddr a) (setaddr a s) (setaddr a s') :=
  ⟨rfl, by simp [writes]⟩

theorem sameAnswer_clr : SameAnswer .clr (clr s) (clr s') := by
  rw [clr_eq, clr_eq]
  exact ⟨rfl, by simp [writes, State.groupValue]⟩

theorem sameAnswer_of_mem_unassigned {i : Instr} (h : i ∈ unassigned) :
    SameAnswer i (after i s) (after i s') := by
  simp only [unassigned, List.mem_cons, List.not_mem_nil, or_false] at h
  rcases h with rfl | rfl | rfl | rfl | rfl | rfl | rfl <;> exact ⟨rfl, by simp [writes]⟩

variable {s s'}

theorem sameAnswer_sbuild (h : s.saddr = s'.saddr) (fc d0 d1 d2 : Byte) :
    SameAnswer (.sbuild fc d0 d1 d2) (sbuild fc d0 d1 d2 s) (sbuild fc d0 d1 d2 s') := by
  rw [sbuild_eq, sbuild_eq]
  exact ⟨rfl, by simp [writes, State.groupValue, h]⟩

theorem sameAnswer_sparse (h : s.saddr = s'.saddr) (efc : Byte) (rx : ByteString) :
    SameAnswer (.sparse efc rx) (sparse efc rx s) (sparse efc rx s') := by
  obtain ⟨x, st, hx⟩ := exists_sparse_eq s'.saddr efc rx
  rw [hx s h, hx s' rfl]
  exact ⟨rfl, by simp [writes, State.groupValue]⟩

theorem sameAnswer_user (h : s.f = s'.f) : SameAnswer .user (user s) (user s') := by
  cases hf : s'.f with
  | none =>
    rw [user_of_none s (h.trans hf), user_of_none s' hf]
    exact .of_notReady rfl rfl
  | some f =>
    rw [user_of_some s (h.trans hf), user_of_some s' hf]
    exact ⟨rfl, by simp [writes, State.groupValue]⟩

theorem sameAnswer_uchunk (h : s.sb = s'.sb) : SameAnswer .uchunk (uchunk s) (uchunk s') := by
  cases hb : s'.sb with
  | none =>
    rw [uchunk_of_none s (h.trans hb), uchunk_of_none s' hb]
    exact .of_notReady rfl rfl
  | some sb =>
    rw [uchunk_of_some s (h.trans hb), uchunk_of_some s' hb]
    exact ⟨rfl, by simp [writes, State.groupValue]⟩

theorem sameAnswer_upcmd (h : s.r = s'.r) : SameAnswer .upcmd (upcmd s) (upcmd s') := by
  cases hr : s'.r with
  | none =>
    rw [upcmd_of_none s (h.trans hr), upcmd_of_none s' hr]
    exact .of_notReady rfl rfl
  | some r =>
    obtain ⟨f, st, hu⟩ := exists_upcmd_eq r
    rw [hu s (h.trans hr), hu s' hr]
    exact ⟨rfl, by simp [writes, State.groupValue]⟩

end

/-- Settles O38: the status and the written groups are, operation by operation, a function of the operands and of
the item the operation reads, and the response is a function of these. -/
theorem operationsReadOnlyNamedState : Obligations.OperationsReadOnlyNamedState := by
  intro i s s' t t' ht ht' hreads
  obtain rfl := exec_next_iff.1 ht
  obtain rfl := exec_next_iff.1 ht'
  have hsame : SameAnswer i (after i s) (after i s') := by
    rcases hreads with ⟨d, q, c, p, rfl⟩ | ⟨rx, rfl⟩ | ⟨a, rfl⟩ | rfl | hun |
      ⟨⟨fc, d0, d1, d2, rfl⟩ | ⟨efc, rx, rfl⟩, hsaddr⟩ | ⟨rfl, hf⟩ | ⟨rfl, hsb⟩ | ⟨rfl, hr⟩
    · exact sameAnswer_ubuild s s' d q c p
    · exact sameAnswer_uparse s s' rx
    · exact sameAnswer_setaddr s s' a
    · exact sameAnswer_clr s s'
    · exact sameAnswer_of_mem_unassigned s s' hun
    · exact sameAnswer_sbuild hsaddr fc d0 d1 d2
    · exact sameAnswer_sparse hsaddr efc rx
    · exact sameAnswer_user hf
    · exact sameAnswer_uchunk hsb
    · exact sameAnswer_upcmd hr
  exact ⟨hsame.responseOf_eq, hsame.groups⟩

/-! ## Which operations write F, and what they leave in it (R26) -/

theorem user_f (s : State) : (user s).f = s.f := by
  cases hf : s.f with
  | none => rw [user_of_none s hf, hf]
  | some f => rw [user_of_some s hf, hf]

theorem uchunk_f (s : State) : (uchunk s).f = s.f := by
  cases hb : s.sb with
  | none => rw [uchunk_of_none s hb]
  | some sb => rw [uchunk_of_some s hb]

theorem uparse_f (rx : ByteString) (s : State) : (uparse rx s).f = s.f := by
  obtain ⟨r, st, h⟩ := exists_uparse_eq rx
  rw [h s]

theorem sparse_f (efc : Byte) (rx : ByteString) (s : State) : (sparse efc rx s).f = s.f := by
  obtain ⟨x, st, h⟩ := exists_sparse_eq s.saddr efc rx
  rw [h s rfl]

/-- UBUILD leaves F invalid or with a frame that fits (R120). -/
theorem ubuild_f_cases (dir : Dir) (seq : Byte) (cmd : Half) (pay : ByteString) (s : State) :
    (ubuild dir seq cmd pay s).f = none ∨
      ∃ f, (ubuild dir seq cmd pay s).f = some f ∧ f.n + 6 ≤ 512 := by
  rcases Nat.lt_or_ge 512 (pay.length + 6) with h | h
  · rw [ubuild_of_tooLong s h]
    exact .inl rfl
  · rw [ubuild_of_fits s h]
    exact .inr ⟨_, rfl, h⟩

/-- UPCMD leaves F as it was (NotReady), invalid, or with a frame that fits (R141). -/
theorem upcmd_f_cases (s : State) :
    (upcmd s).f = none ∨ (upcmd s).f = s.f ∨ ∃ f, (upcmd s).f = some f ∧ f.n + 6 ≤ 512 := by
  rcases upcmd_cases s with ⟨-, h⟩ | ⟨r, -, ⟨-, h⟩ | ⟨-, h⟩ | ⟨h2, h508, h⟩⟩
  · rw [h]; exact .inr (.inl rfl)
  · rw [h]; exact .inl rfl
  · rw [h]; exact .inl rfl
  · rw [h]
    refine .inr (.inr ⟨_, rfl, ?_⟩)
    show r.len.toNat - 2 + 6 ≤ 512
    omega

/-- What F holds after an operation (R20, R26): nothing, what it held, or a new frame that fits, which only UBUILD
and UPCMD make. -/
theorem operation_f_cases {i : Instr} (hi : isOperation i = true) (s : State) :
    (after i s).f = none ∨ (after i s).f = s.f ∨
      (((∃ d q c p, i = .ubuild d q c p) ∨ i = .upcmd) ∧ ∃ f, (after i s).f = some f ∧ f.n + 6 ≤ 512) := by
  cases i with
  | ubuild d q c p =>
    rcases ubuild_f_cases d q c p s with h | h
    · exact .inl h
    · exact .inr (.inr ⟨.inl ⟨d, q, c, p, rfl⟩, h⟩)
  | upcmd =>
    rcases upcmd_f_cases s with h | h | h
    · exact .inl h
    · exact .inr (.inl h)
    · exact .inr (.inr ⟨.inr rfl, h⟩)
  | user => exact .inr (.inl (user_f s))
  | uchunk => exact .inr (.inl (uchunk_f s))
  | uparse rx => exact .inr (.inl (uparse_f rx s))
  | sparse efc rx => exact .inr (.inl (sparse_f efc rx s))
  | clr => exact .inl rfl
  | sbuild | setaddr | unassigned9 | unassignedA | unassignedB | unassignedC | unassignedD | unassignedE
  | unassignedF => exact .inr (.inl rfl)
  | cmdWr | cmdRd | replyOk | replyErr | chunk | serial => cases hi

/-- Settles O44, by the three things an operation can leave in F. -/
theorem frameInvariantIsKept : Obligations.FrameInvariantIsKept := by
  intro i s t hi ht
  obtain rfl := exec_next_iff.1 ht
  rcases operation_f_cases hi s with h | h | ⟨hmaker, f, h, hfits⟩
  · exact ⟨.inr (.inl h), fun _ f hf => by simp [h] at hf⟩
  · exact ⟨.inr (.inr h), fun hs f hf => hs f (h.symm.trans hf)⟩
  · exact ⟨.inl hmaker, fun _ g hg => by cases h.symm.trans hg; exact hfits⟩

/-! ## Reset (R38) -/

theorem valid_resetWith (a : Byte) (g : Group) : (State.resetWith a).valid g = false := by
  cases g <;> rfl

/-- Settles O41: reset leaves SADDR_RESET, the code of OK, and no valid group. -/
theorem resetStateIsEmpty : Obligations.ResetStateIsEmpty :=
  ⟨fun a => ⟨rfl, rfl, valid_resetWith a⟩, rfl⟩

end Sys2Proof.Machine
end

section
/-! Repeated requests (R60): every instruction, issued again on the state it left, leaves that state. An operation
does not write the item it reads (USER reads F and writes SB, UCHUNK reads SB and writes CQ, UPCMD reads R and writes
F, SBUILD and SPARSE read SADDR), so the second time it reads what it read the first time. -/

namespace Sys2Proof.Machine

/-! ## The operations -/

section

variable (s : State)

theorem ubuild_ubuild (dir : Dir) (seq : Byte) (cmd : Half) (pay : ByteString) :
    ubuild dir seq cmd pay (ubuild dir seq cmd pay s) = ubuild dir seq cmd pay s := by
  obtain ⟨f, st, h⟩ := exists_ubuild_eq dir seq cmd pay
  rw [h s, h]

theorem user_user : user (user s) = user s := by
  cases hf : s.f with
  | none =>
    rw [user_of_none s hf]
    exact user_of_none _ hf
  | some f =>
    rw [user_of_some s hf]
    exact user_of_some _ hf

theorem uchunk_uchunk : uchunk (uchunk s) = uchunk s := by
  cases hb : s.sb with
  | none =>
    rw [uchunk_of_none s hb]
    exact uchunk_of_none _ hb
  | some sb =>
    rw [uchunk_of_some s hb]
    exact uchunk_of_some _ hb

theorem uparse_uparse (rx : ByteString) : uparse rx (uparse rx s) = uparse rx s := by
  obtain ⟨r, st, h⟩ := exists_uparse_eq rx
  rw [h s, h]

theorem upcmd_upcmd : upcmd (upcmd s) = upcmd s := by
  cases hr : s.r with
  | none =>
    rw [upcmd_of_none s hr]
    exact upcmd_of_none _ hr
  | some r =>
    obtain ⟨f, st, h⟩ := exists_upcmd_eq r
    rw [h s hr]
    exact h _ hr

theorem sparse_sparse (efc : Byte) (rx : ByteString) : sparse efc rx (sparse efc rx s) = sparse efc rx s := by
  obtain ⟨x, st, h⟩ := exists_sparse_eq s.saddr efc rx
  rw [h s rfl]
  exact h _ rfl

theorem clr_clr : clr (clr s) = clr s := by
  rw [clr_eq, clr_eq]

/-! ## The rows that are sequences of operations (log 6, log 7) -/

theorem runOps_ubuild_user_twice (d : Dir) (seq : Byte) (cmd : Half) (pay : ByteString) :
    runOps [ubuild d seq cmd pay, user] (runOps [ubuild d seq cmd pay, user] s) =
      runOps [ubuild d seq cmd pay, user] s := by
  rcases Nat.lt_or_ge 512 (pay.length + 6) with h | h
  · rw [runOps_ubuild_user_of_tooLong s h, runOps_ubuild_user_of_tooLong _ h]
  · rw [runOps_ubuild_user_of_fits s h, runOps_ubuild_user_of_fits _ h]

/-- After a complete frame that parses to a reply `r` with a command field and a payload that fits, all four
operations end OK and every group they write is a function of `r`. -/
theorem runOps_reproduce_of_fits {rx : ByteString} {r : ReplyFrame}
    (hparse : ∀ t : State, uparse rx t = { t with r := some r, status := .ok })
    (h2 : 2 ≤ r.len.toNat) (h508 : r.len.toNat ≤ 508) :
    runOps [uparse rx, upcmd, user, uchunk] s = { s with
      r := some r, f := some (commandView r), sb := some (serializeFrame (commandView r))
      cq := some (cutChunks (serializeFrame (commandView r))), status := .ok } := by
  rw [runOps_cons_ok _ (by rw [hparse]), hparse,
    runOps_cons_ok _ (by rw [upcmd_of_fits _ rfl h2 h508]), upcmd_of_fits _ rfl h2 h508,
    runOps_cons_ok _ (by rw [user_of_some _ rfl]), user_of_some _ rfl,
    runOps_cons_ok _ (by rw [uchunk_of_some _ rfl]), uchunk_of_some _ rfl, runOps_nil]

/-- A parser or a command view that refused the frame refuses it again, and when all four operations ended OK they
write the same groups again. -/
theorem runOps_reproduce_twice (rx : ByteString) :
    runOps [uparse rx, upcmd, user, uchunk] (runOps [uparse rx, upcmd, user, uchunk] s) =
      runOps [uparse rx, upcmd, user, uchunk] s := by
  rcases runOps_reproduce_cases s rx with
    ⟨hst, h⟩ | ⟨r, hparse, -, ⟨st, hst, hcmd, h⟩ | ⟨h2, h508, -⟩⟩
  · rw [h, runOps_cons_fail _ (by rwa [uparse_uparse]), uparse_uparse]
  · rw [h, runOps_cons_ok _ (by rw [hparse]), hparse, runOps_cons_fail _ (by rwa [hcmd _ rfl]), hcmd _ rfl]
  · rw [runOps_reproduce_of_fits s hparse h2 h508, runOps_reproduce_of_fits _ hparse h2 h508]

theorem readChunk_readChunk (bytes : ByteString) :
    readChunk bytes (readChunk bytes s) = readChunk bytes s := by
  cases h : completesFrame bytes with
  | false => simp only [readChunk_of_incomplete _ h]
  | true => simp only [readChunk_of_complete _ h, runOps_reproduce_twice]

end

/-! ## Every instruction -/

theorem after_after (i : Instr) (s : State) : after i (after i s) = after i s := by
  cases i with
  | ubuild d q c p => exact ubuild_ubuild s d q c p
  | user => exact user_user s
  | uchunk => exact uchunk_uchunk s
  | uparse rx => exact uparse_uparse s rx
  | upcmd => exact upcmd_upcmd s
  | sparse efc rx => exact sparse_sparse s efc rx
  | cmdWr q c p => exact runOps_ubuild_user_twice s .write q c p
  | cmdRd q c p => exact runOps_ubuild_user_twice s .read q c p
  | replyOk flag q data trailing | replyErr flag q data trailing =>
    exact uparse_uparse s (replyBytes flag q data trailing)
  | chunk bytes => exact readChunk_readChunk s bytes
  | serial addr fc d0 d1 d2 ck => exact sparse_sparse s fc (serialFrameBytes addr fc d0 d1 d2 ck)
  | clr => exact clr_clr s
  | sbuild fc d0 d1 d2 => rfl
  | setaddr a => rfl
  | unassigned9 | unassignedA | unassignedB | unassignedC | unassignedD | unassignedE | unassignedF => rfl

/-- Settles O31: the state an instruction leaves is a fixed point of the same instruction. -/
theorem repeatedRequestChangesNothing : Obligations.RepeatedRequestChangesNothing := by
  intro i s t ht
  obtain rfl := exec_next_iff.1 ht
  rw [exec_eq_next, after_after]

end Sys2Proof.Machine
end

section
/-! The encoding of requests, responses and chunks (30_encoding.md): the operation numbers that select nothing
(R106), the flag bytes of the serializer (R101), what a response copies (R97), and how a reader places chunks (R108). -/

namespace Sys2Proof.Machine

open Safety

/-! ## The unassigned operation numbers (R106) -/

theorem after_of_mem_unassigned {i : Instr} (h : i ∈ unassigned) (s : State) :
    after i s = { s with status := .badRequest } := by
  simp only [unassigned, List.mem_cons, List.not_mem_nil, or_false] at h
  rcases h with rfl | rfl | rfl | rfl | rfl | rfl | rfl <;> rfl

/-- Settles O10: what each of the seven leaves is the front end's refusal. -/
theorem unassignedNumbersAreBadRequest : Obligations.UnassignedNumbersAreBadRequest := by
  intro i hi s
  rw [exec_eq_next, after_of_mem_unassigned hi]

/-! ## The flag byte of a serialized frame (R101) -/

theorem serializeFrame_b_zero (f : CommandFrame) : (serializeFrame f).b[0]? = some (commandFlag f.dir) := rfl

/-- Settles O21: a USER that ends OK serialized a frame, whose byte 0 is the flag byte of its direction. -/
theorem serializerEmitsTwoFlags : Obligations.SerializerEmitsTwoFlags := by
  intro s t ht hok
  obtain rfl := exec_next_iff.1 ht
  change (user s).status = .ok at hok
  change ∃ sb, (user s).sb = some sb ∧ _
  cases hf : s.f with
  | none => simp [user_of_none s hf] at hok
  | some f =>
    refine ⟨serializeFrame f, by rw [user_of_some s hf], ?_⟩
    rw [serializeFrame_b_zero]
    cases f.dir with
    | write => exact .inl (congrArg some commandFlag_write)
    | read => exact .inr (congrArg some commandFlag_read)

/-! ## What a response copies (R97) -/

theorem valid_eq_isSome_groupValue (s : State) (g : Group) : s.valid g = (s.groupValue g).isSome := by
  cases g <;> simp [State.valid, State.groupValue]

theorem responseOf_value_of_ok {t : State} (h : t.status = .ok) (i : Instr) :
    (responseOf i t).value = (writtenGroup i).bind t.groupValue := if_pos h

theorem responseOf_value_of_not_ok {t : State} (h : t.status ≠ .ok) (i : Instr) :
    (responseOf i t).value = none := if_neg h

section

variable {s : State}

theorem ubuild_f_isSome_of_ok {dir : Dir} {seq : Byte} {cmd : Half} {pay : ByteString}
    (h : (ubuild dir seq cmd pay s).status = .ok) : (ubuild dir seq cmd pay s).f.isSome = true := by
  rcases Nat.lt_or_ge 512 (pay.length + 6) with hlen | hlen
  · simp [ubuild_of_tooLong s hlen] at h
  · rw [ubuild_of_fits s hlen]; rfl

theorem user_sb_isSome_of_ok (h : (user s).status = .ok) : (user s).sb.isSome = true := by
  cases hf : s.f with
  | none => simp [user_of_none s hf] at h
  | some f => rw [user_of_some s hf]; rfl

theorem uchunk_cq_isSome_of_ok (h : (uchunk s).status = .ok) : (uchunk s).cq.isSome = true := by
  cases hb : s.sb with
  | none => simp [uchunk_of_none s hb] at h
  | some sb => rw [uchunk_of_some s hb]; rfl

theorem uparse_r_isSome_of_ok {rx : ByteString} (h : (uparse rx s).status = .ok) :
    (uparse rx s).r.isSome = true := by
  rcases uparse_cases s rx with ⟨-, hp⟩ | ⟨flag, seq, l0, l1, rest, -, ⟨-, hp⟩ | ⟨-, hp⟩⟩
  · simp [hp] at h
  · simp [hp] at h
  · rw [hp]; rfl

theorem upcmd_f_isSome_of_ok (h : (upcmd s).status = .ok) : (upcmd s).f.isSome = true := by
  rcases upcmd_cases s with ⟨-, hc⟩ | ⟨r, -, ⟨-, hc⟩ | ⟨-, hc⟩ | ⟨-, -, hc⟩⟩
  · simp [hc] at h
  · simp [hc] at h
  · simp [hc] at h
  · rw [hc]; rfl

theorem sparse_srx_isSome_of_ok {efc : Byte} {rx : ByteString} (h : (sparse efc rx s).status = .ok) :
    (sparse efc rx s).srx.isSome = true := by
  rcases sparse_cases s efc rx with ⟨x, -, hx⟩ | ⟨-, hx⟩
  · rw [hx]; rfl
  · simp [hx] at h

theorem runOps_ubuild_user_sb_isSome_of_ok {d : Dir} {seq : Byte} {cmd : Half} {pay : ByteString}
    (h : (runOps [ubuild d seq cmd pay, user] s).status = .ok) :
    (runOps [ubuild d seq cmd pay, user] s).sb.isSome = true := by
  rcases Nat.lt_or_ge 512 (pay.length + 6) with hlen | hlen
  · simp [runOps_ubuild_user_of_tooLong s hlen] at h
  · rw [runOps_ubuild_user_of_fits s hlen]; rfl

theorem runOps_reproduce_cq_isSome_of_ok {rx : ByteString}
    (h : (runOps [uparse rx, upcmd, user, uchunk] s).status = .ok) :
    (runOps [uparse rx, upcmd, user, uchunk] s).cq.isSome = true := by
  rcases runOps_reproduce_cases s rx with ⟨hst, hr⟩ | ⟨r, -, -, ⟨st, hst, -, hr⟩ | ⟨-, -, hr⟩⟩
  · rw [hr] at h; exact absurd h hst
  · rw [hr] at h; exact absurd h hst
  · rw [hr]; rfl

end

/-- An instruction that ends OK leaves the group that its response copies valid. -/
theorem valid_writtenGroup_of_ok {i : Instr} {g : Group} {s : State} (hg : writtenGroup i = some g)
    (hok : (after i s).status = .ok) : (after i s).valid g = true := by
  cases i with
  | ubuild => cases hg; exact ubuild_f_isSome_of_ok hok
  | user => cases hg; exact user_sb_isSome_of_ok hok
  | uchunk => cases hg; exact uchunk_cq_isSome_of_ok hok
  | uparse => cases hg; exact uparse_r_isSome_of_ok hok
  | upcmd => cases hg; exact upcmd_f_isSome_of_ok hok
  | sbuild => cases hg; rfl
  | sparse => cases hg; exact sparse_srx_isSome_of_ok hok
  | cmdWr | cmdRd => cases hg; exact runOps_ubuild_user_sb_isSome_of_ok hok
  | replyOk | replyErr => cases hg; exact uparse_r_isSome_of_ok hok
  | chunk bytes =>
    cases hc : completesFrame bytes with
    | false => simp [writtenGroup, hc] at hg
    | true =>
      obtain rfl : Group.CQ = g := by simpa [writtenGroup, hc] using hg
      change (readChunk bytes s).status = .ok at hok
      change (readChunk bytes s).cq.isSome = true
      rw [readChunk_of_complete s hc] at hok ⊢
      exact runOps_reproduce_cq_isSome_of_ok hok
  | serial => cases hg; exact sparse_srx_isSome_of_ok hok
  | setaddr | clr | unassigned9 | unassignedA | unassignedB | unassignedC | unassignedD | unassignedE
  | unassignedF => cases hg

/-- The response to an instruction that ended OK carries the item that its written group holds. -/
theorem exists_copy_of_ok {i : Instr} {g : Group} {s : State} {α : Type} {item : Option α} {copy : α → Value}
    (hok : (after i s).status = .ok) (hg : writtenGroup i = some g)
    (hitem : (after i s).groupValue g = item.map copy) :
    ∃ a, item = some a ∧ (responseOf i (after i s)).value = some (copy a) := by
  have hvalid := valid_writtenGroup_of_ok hg hok
  rw [valid_eq_isSome_groupValue, hitem, Option.isSome_map] at hvalid
  obtain ⟨a, rfl⟩ := Option.isSome_iff_exists.1 hvalid
  exact ⟨a, rfl, by rw [responseOf_value_of_ok hok, hg]; exact hitem⟩

/-- Settles O37: with OK the written group is valid and the response holds its item; SETADDR and CLR write no
group. -/
theorem responseCopiesWrittenGroup : Obligations.ResponseCopiesWrittenGroup := by
  intro i s t ht
  obtain rfl := exec_next_iff.1 ht
  refine ⟨rfl, fun hne => responseOf_value_of_not_ok hne i, fun hok => ⟨?_, ?_, ?_, ?_, ?_, ?_, ?_⟩⟩
  · rintro (⟨d, q, c, p, rfl⟩ | rfl) <;> exact exists_copy_of_ok hok rfl rfl
  · rintro rfl; exact exists_copy_of_ok hok rfl rfl
  · rintro rfl; exact exists_copy_of_ok hok rfl rfl
  · rintro ⟨rx, rfl⟩; exact exists_copy_of_ok hok rfl rfl
  · rintro ⟨fc, d0, d1, d2, rfl⟩; exact exists_copy_of_ok hok rfl rfl
  · rintro ⟨efc, rx, rfl⟩; exact exists_copy_of_ok hok rfl rfl
  · rintro (⟨a, rfl⟩ | rfl) <;> exact responseOf_value_of_ok hok _

/-! ## A chunk at its position (R108) -/

/-- A pseudo-operation is the sequence of its requests' effects, as a wire row is one (R110, log 6). -/
theorem runPseudo_eq_runOps (is : List Instr) (s : State) : runPseudo is s = .next (runOps (is.map after) s) := by
  induction is generalizing s with
  | nil => rfl
  | cons i is ih =>
    simp only [runPseudo, exec_eq_next, ih, List.map_cons, runOps]
    split <;> rfl

/-- Settles O55: chunk 0 announces one chunk and `moreChunks` further ones, and only the last completes the frame. -/
theorem chunksAreReadByPosition : Obligations.ChunksAreReadByPosition := by
  intro bytes s b0 b1 l0 l1 tail hbytes
  have hcomplete := completesFrame_iff hbytes
  simp only [moreChunks] at hcomplete
  change (_ → Host.Outcome.next (readChunk bytes s) = _) ∧ (_ → Host.Outcome.next (readChunk bytes s) = _)
  constructor
  · intro hlt
    rw [readChunk_of_incomplete s (Bool.eq_false_iff.2 fun h => by have := hcomplete.1 h; omega)]
  · intro hle
    rw [readChunk_of_complete s (hcomplete.2 (by omega)), runPseudo_eq_runOps]
    rfl

/-! ## The reader of chunks (R108, log 7) -/

/-- The requests that hand over the chunks `ws` behind `before`, each with the chunks of its frame that precede it. -/
def placedChunks (before : ByteString) (ws : List ByteString) : List Instr :=
  (List.range ws.length).map fun k => .chunk (before ++ (ws.take (k + 1)).flatten)

@[simp] theorem length_placedChunks (before : ByteString) (ws : List ByteString) :
    (placedChunks before ws).length = ws.length := by
  simp [placedChunks]

theorem placedChunks_cons (before w : ByteString) (ws : List ByteString) :
    placedChunks before (w :: ws) = .chunk (before ++ w) :: placedChunks (before ++ w) ws := by
  simp [placedChunks, List.range_succ_eq_map]

theorem getElem?_placedChunks {ws : List ByteString} {k : Nat} (h : k < ws.length) (before : ByteString) :
    (placedChunks before ws)[k]? = some (.chunk (before ++ (ws.take (k + 1)).flatten)) := by
  simp [placedChunks, List.getElem?_range h]

/-- When the last of the chunks `ws`, and no earlier one, completes the frame begun with `before`, the reader places
them all in that frame and begins another with the chunk after them. -/
theorem chunkRequests_append_of_frame {before : ByteString} {ws : List ByteString} (hne : ws ≠ [])
    (hframe : ∀ k < ws.length,
      completesFrame (before ++ (ws.take (k + 1)).flatten) = decide (k + 1 = ws.length))
    (rest : List ByteString) :
    chunkRequests before (ws ++ rest) = placedChunks before ws ++ chunkRequests [] rest := by
  induction ws generalizing before with
  | nil => exact absurd rfl hne
  | cons w ws ih =>
    have hfirst := hframe 0 (by simp)
    rw [placedChunks_cons, List.cons_append, List.cons_append, chunkRequests]
    cases ws with
    | nil =>
      have hlast : completesFrame (before ++ w) = true := by simpa using hfirst
      simp [hlast, placedChunks]
    | cons v vs =>
      have hmore : completesFrame (before ++ w) = false := by simpa using hfirst
      rw [hmore, if_neg Bool.false_ne_true, ih (by simp)]
      intro k hk
      simpa using hframe (k + 1) (by simpa using hk)

theorem length_flatten_chunks {ws : List ByteString} (h : ∀ w ∈ ws, w.length = 64) :
    ws.flatten.length = 64 * ws.length := by
  rw [List.length_flatten, List.map_congr_left h]
  simp [Nat.mul_comm]

/-- The length of the first chunks of a frame, joined. -/
theorem length_flatten_take {ws : List ByteString} (h : ∀ w ∈ ws, w.length = 64) {k : Nat} (hk : k ≤ ws.length) :
    (ws.take k).flatten.length = 64 * k := by
  rw [length_flatten_chunks fun w hw => h w (List.mem_of_mem_take hw), List.length_take, Nat.min_eq_left hk]

section

variable {b0 b1 l0 l1 : Byte} {tail : ByteString} {later : List ByteString}
  (hfirst : (b0 :: b1 :: l0 :: l1 :: tail).length = 64) (hlater : ∀ w ∈ later, w.length = 64)
  (hcount : later.length = moreChunks l0 l1)

include hfirst hlater

theorem length_joined_chunks {k : Nat} (hk : k ≤ later.length) :
    (((b0 :: b1 :: l0 :: l1 :: tail) :: later).take (k + 1)).flatten.length = 64 * (k + 1) :=
  length_flatten_take (List.forall_mem_cons.2 ⟨hfirst, hlater⟩) (Nat.succ_le_succ hk)

include hcount

/-- The chunks of a frame up to chunk `k`, joined, complete it exactly when chunk `k` is the last announced. -/
theorem completesFrame_joined_chunks {k : Nat} (hk : k ≤ later.length) :
    completesFrame (((b0 :: b1 :: l0 :: l1 :: tail) :: later).take (k + 1)).flatten =
      decide (k = later.length) := by
  have hlen := length_joined_chunks hfirst hlater hk
  rw [Bool.eq_iff_iff, decide_eq_true_iff, completesFrame_iff (by rfl), hlen]
  omega

theorem chunk_wellFormed_of_joined {k : Nat} (hk : k ≤ later.length) :
    (Instr.chunk (((b0 :: b1 :: l0 :: l1 :: tail) :: later).take (k + 1)).flatten).WellFormed := by
  have hlen := length_joined_chunks hfirst hlater hk
  refine chunkFits_iff.2 ?_
  rw [hlen]
  simp only [List.take_succ_cons, List.flatten_cons, List.cons_append, announcedChunks_cons]
  omega

end

/-- Settles O57: chunk 0 and the chunks it announces are one frame to the reader, since only the last of them
completes it. -/
theorem readerPlacesChunksByPosition : Obligations.ReaderPlacesChunksByPosition := by
  intro b0 b1 l0 l1 tail later rest hfirst hlater hcount
  refine ⟨placedChunks [] ((b0 :: b1 :: l0 :: l1 :: tail) :: later), ?_, by simp, ?_, ?_⟩
  · refine chunkRequests_append_of_frame (by simp) (fun k hk => ?_) rest
    have hk' : k ≤ later.length := Nat.le_of_lt_succ hk
    simpa using completesFrame_joined_chunks hfirst hlater hcount hk'
  · intro i hi
    obtain ⟨k, hk, rfl⟩ := List.mem_map.1 hi
    exact chunk_wellFormed_of_joined hfirst hlater hcount (Nat.le_of_lt_succ (List.mem_range.1 hk))
  · intro k hk
    exact getElem?_placedChunks (Nat.lt_succ_of_le hk) []

end Sys2Proof.Machine
end

section
/-! The USB transmit operations (40_usb_tx.md): what UBUILD, USER and UCHUNK do (R120 to R122), what USEND leaves in SB
and CQ (R123, R124, R126), and that a failed UBUILD leaves nothing to send (R125). -/

namespace Sys2Proof.Machine

open Safety

/-! ## The three operations (R120 to R122) -/

/-- Settles O1: the two sides of the length bound. -/
theorem ubuildBuildsOrRejects : Obligations.UbuildBuildsOrRejects := fun dir seq cmd _ s =>
  ⟨fun h => congrArg Host.Outcome.next (ubuild_of_fits s h dir seq cmd),
    fun h => congrArg Host.Outcome.next (ubuild_of_tooLong s h dir seq cmd)⟩

/-- Settles O2: what USER writes is the serialized frame, which has the layout of R80. -/
theorem userSerializesFrame : Obligations.UserSerializesFrame := fun s =>
  ⟨fun h => congrArg Host.Outcome.next (user_of_none s h),
    fun f h hf => ⟨serializeFrame f, congrArg Host.Outcome.next (user_of_some s h), serializedOf_serializeFrame hf⟩⟩

/-- Settles O3: what UCHUNK writes is the cut SB, which holds the chunks of R86. -/
theorem uchunkCutsSerializedBytes : Obligations.UchunkCutsSerializedBytes := fun s =>
  ⟨fun h => congrArg Host.Outcome.next (uchunk_of_none s h),
    fun sb h hsb => ⟨cutChunks sb, congrArg Host.Outcome.next (uchunk_of_some s h), chunksOf_cutChunks hsb⟩⟩

/-! ## USEND (R110) -/

/-- The frame UBUILD makes of operands that fit is sound (R120, R26). -/
theorem frameOk_of_fits {pay : ByteString} (h : pay.length + 6 ≤ 512) (dir : Dir) (seq : Byte) (cmd : Half) :
    FrameOk ⟨dir, seq, cmd, pay.length, pay⟩ := ⟨rfl, h⟩

/-- USEND on a payload that fits: all three operations end OK, and every group they write is a function of the
operands. -/
theorem runPseudo_usend {pay : ByteString} (h : pay.length + 6 ≤ 512) (dir : Dir) (seq : Byte) (cmd : Half)
    (s : State) :
    runPseudo (usend dir seq cmd pay) s = .next { s with
      f := some ⟨dir, seq, cmd, pay.length, pay⟩
      sb := some (serializeFrame ⟨dir, seq, cmd, pay.length, pay⟩)
      cq := some (cutChunks (serializeFrame ⟨dir, seq, cmd, pay.length, pay⟩)), status := .ok } := by
  rw [runPseudo_eq_runOps]
  change Host.Outcome.next (runOps [ubuild dir seq cmd pay, user, uchunk] s) = _
  rw [runOps_cons_ok _ (by rw [ubuild_of_fits s h]), ubuild_of_fits s h,
    runOps_cons_ok _ (by rw [user_of_some _ rfl]), user_of_some _ rfl,
    runOps_cons_ok _ (by rw [uchunk_of_some _ rfl]), uchunk_of_some _ rfl, runOps_nil]

/-! ## The serialized bytes and their chunks (R80, R86) -/

theorem drop_serializeFrame_b {f : CommandFrame} (h : FrameOk f) : (serializeFrame f).b.drop 6 = f.pay := by
  rw [serializeFrame_b h]
  rfl

/-- A chunk, byte by byte: the serialized bytes where there are any, zeros beyond them (R86). -/
theorem getElem?_wireChunk_of_length {sb : SerializedBytes} (h : sb.b.length = sb.t) {j : Nat} (k : Nat)
    (hj : j < 64) : (wireChunk sb k)[j]? = if 64 * k + j < sb.t then sb.b[64 * k + j]? else some 0 := by
  rw [getElem?_wireChunk sb k hj]
  split
  · rename_i hlt
    rw [List.getD_eq_getElem?_getD, List.getElem?_eq_getElem (h ▸ hlt), Option.getD_some]
  · rfl

/-- A chunk as a string: its 64 serialized bytes, or those left and the zeros that fill it (R86). -/
theorem wireChunk_eq_append {sb : SerializedBytes} (h : sb.b.length = sb.t) {k : Nat} (hk : 64 * k ≤ sb.t) :
    wireChunk sb k = (sb.b.drop (64 * k)).take 64 ++ List.replicate (64 * (k + 1) - sb.t) 0 := by
  apply List.ext_getElem?
  intro j
  rcases Nat.lt_or_ge j 64 with hj | hj
  · rw [getElem?_wireChunk_of_length h k hj]
    split
    · rw [List.getElem?_append_left (by simp; omega), List.getElem?_take_of_lt hj, List.getElem?_drop]
    · rw [List.getElem?_append_right (by simp; omega), List.getElem?_replicate, if_pos (by simp; omega)]
  · rw [List.getElem?_eq_none (by simpa using hj), List.getElem?_eq_none (by simp; omega)]

/-- Chunk 0 of a sound frame: the header, then the first 58 payload bytes or all of them and zeros (R124). -/
theorem wireChunk_zero_serializeFrame {f : CommandFrame} (h : FrameOk f) :
    wireChunk (serializeFrame f) 0 =
      (serializeFrame f).b.take 6 ++ (f.pay.take 58 ++ List.replicate (58 - f.n) 0) := by
  rw [wireChunk_eq_append (length_serializeFrame_b h) (Nat.zero_le _), serializeFrame_t, serializeFrame_b h,
    ← List.append_assoc]
  congr 2
  omega

/-- A later chunk of a sound frame is payload, byte by byte, and zeros beyond it (R124). -/
theorem getElem?_wireChunk_serializeFrame {f : CommandFrame} (h : FrameOk f) {k j : Nat} (hk : 1 ≤ k)
    (hj : j < 64) : (wireChunk (serializeFrame f) k)[j]? =
      if 58 + 64 * (k - 1) + j < f.n then f.pay[58 + 64 * (k - 1) + j]? else some 0 := by
  have hindex : 64 * k + j = 58 + 64 * (k - 1) + j + 6 := by omega
  rw [getElem?_wireChunk_of_length (length_serializeFrame_b h) k hj, getElem?_serializeFrame_b h (by omega),
    serializeFrame_t, hindex, Nat.add_sub_cancel]
  simp only [Nat.add_lt_add_iff_right]

/-! ## What is sent is the frame (R123, R124, R126) -/

/-- Settles O17: USEND cuts the serialized frame, and cutting and joining leaves it and its padding. -/
theorem chunksConcatenateToFrame : Obligations.ChunksConcatenateToFrame := by
  intro dir seq cmd pay s h
  have hf := frameOk_of_fits h dir seq cmd
  have hlen := length_serializeFrame_b hf
  refine ⟨_, _, _, runPseudo_usend h dir seq cmd s, rfl, rfl, rfl, flatten_cutChunks hlen, rfl, hlen, ?_, ?_,
    drop_serializeFrame_b hf⟩
  · change pay.length + 6 ≤ 64 * ((pay.length + 6 + 63) / 64)
    omega
  · change 64 * ((pay.length + 6 + 63) / 64) - (pay.length + 6) ≤ 63
    omega

/-- Settles O18: the first and the later chunks of the serialized frame. -/
theorem firstChunkHoldsHeader : Obligations.FirstChunkHoldsHeader := by
  intro dir seq cmd pay s h
  have hf := frameOk_of_fits h dir seq cmd
  have hheader : ((serializeFrame ⟨dir, seq, cmd, pay.length, pay⟩).b.take 6).length = 6 := rfl
  refine ⟨_, _, _, runPseudo_usend h dir seq cmd s, rfl, rfl, serializedOf_serializeFrame hf, rfl,
    ⟨_, getElem?_cutChunks_c ?_, ?_, ?_⟩,
    fun k hk hlast => ⟨_, getElem?_cutChunks_c hlast, fun j hj => getElem?_wireChunk_serializeFrame hf hk hj⟩⟩
  · change 0 < (pay.length + 6 + 63) / 64
    omega
  · rw [wireChunk_zero_serializeFrame hf, List.take_left' hheader]
  · rw [wireChunk_zero_serializeFrame hf, List.drop_left' hheader,
      List.take_append_of_le_length (by simp), List.take_take, Nat.min_eq_left (Nat.min_le_right ..)]

/-- Settles O20: 66 serialized bytes are two chunks, and the 2 that chunk 1 takes are the last of the payload. -/
theorem sixtyBytesTakeTwoChunks : Obligations.SixtyBytesTakeTwoChunks := by
  intro dir seq cmd pay s h
  have hfits : pay.length + 6 ≤ 512 := by omega
  have hf := frameOk_of_fits hfits dir seq cmd
  have ht : (serializeFrame ⟨dir, seq, cmd, pay.length, pay⟩).t = 66 := by rw [serializeFrame_t, h]
  have hk : (cutChunks (serializeFrame ⟨dir, seq, cmd, pay.length, pay⟩)).k = 2 := congrArg chunkCount ht
  refine ⟨_, _, _, runPseudo_usend hfits dir seq cmd s, rfl, rfl, ht, rfl, hk, ?_⟩
  have hrest : ((serializeFrame ⟨dir, seq, cmd, pay.length, pay⟩).b.drop 64).take 64 = pay.drop 58 := by
    rw [← List.drop_drop (i := 58) (j := 6), drop_serializeFrame_b hf, List.take_of_length_le (by simp [h])]
  rw [getElem?_cutChunks_c (by omega), wireChunk_eq_append (length_serializeFrame_b hf) (by omega), ht]
  exact congrArg (fun front => some (front ++ List.replicate 62 0)) hrest

/-! ## Nothing to send (R125) -/

/-- F and SB are invalid, so neither USER nor UCHUNK has anything to work on. -/
structure NothingToSend (s : State) : Prop where
  frame : s.f = none
  serialized : s.sb = none

theorem nothingToSend_ubuild {dir : Dir} {seq : Byte} {cmd : Half} {pay : ByteString} {s : State}
    (h : (ubuild dir seq cmd pay s).status ≠ .ok) : NothingToSend (ubuild dir seq cmd pay s) := by
  rcases Nat.lt_or_ge 512 (pay.length + 6) with hlen | hlen
  · rw [ubuild_of_tooLong s hlen]; exact ⟨rfl, rfl⟩
  · exact absurd (by rw [ubuild_of_fits s hlen]) h

theorem nothingToSend_runOps_ubuild_user {dir : Dir} {seq : Byte} {cmd : Half} {pay : ByteString} {s : State}
    (h : (runOps [ubuild dir seq cmd pay, user] s).status ≠ .ok) :
    NothingToSend (runOps [ubuild dir seq cmd pay, user] s) := by
  rcases Nat.lt_or_ge 512 (pay.length + 6) with hlen | hlen
  · rw [runOps_ubuild_user_of_tooLong s hlen]; exact ⟨rfl, rfl⟩
  · exact absurd (by rw [runOps_ubuild_user_of_fits s hlen]) h

namespace NothingToSend

variable {s : State} (hs : NothingToSend s)

include hs

theorem user : NothingToSend (user s) := by
  rw [user_of_none s hs.frame]; exact ⟨hs.frame, hs.serialized⟩

theorem uchunk : NothingToSend (uchunk s) := by
  rw [uchunk_of_none s hs.serialized]; exact ⟨hs.frame, hs.serialized⟩

theorem uparse (rx : ByteString) : NothingToSend (uparse rx s) := by
  obtain ⟨r, st, h⟩ := exists_uparse_eq rx
  rw [h s]; exact ⟨hs.frame, hs.serialized⟩

theorem sparse (efc : Byte) (rx : ByteString) : NothingToSend (sparse efc rx s) := by
  obtain ⟨x, st, h⟩ := exists_sparse_eq s.saddr efc rx
  rw [h s rfl]; exact ⟨hs.frame, hs.serialized⟩

theorem upcmd (h : (upcmd s).status ≠ .ok) : NothingToSend (upcmd s) := by
  rcases upcmd_cases s with ⟨-, hc⟩ | ⟨r, -, ⟨-, hc⟩ | ⟨-, hc⟩ | ⟨-, -, hc⟩⟩
  · rw [hc]; exact ⟨hs.frame, hs.serialized⟩
  · rw [hc]; exact ⟨rfl, rfl⟩
  · rw [hc]; exact ⟨rfl, rfl⟩
  · exact absurd (by rw [hc]) h

theorem readChunk {bytes : ByteString}
    (h : completesFrame bytes = true → (readChunk bytes s).status ≠ .ok) : NothingToSend (readChunk bytes s) := by
  cases hc : completesFrame bytes with
  | false => rw [readChunk_of_incomplete s hc]; exact ⟨hs.frame, hs.serialized⟩
  | true =>
    have hfail := h hc
    rw [readChunk_of_complete s hc] at hfail ⊢
    rcases runOps_reproduce_cases s bytes with ⟨-, hr⟩ | ⟨r, -, -, ⟨st, -, -, hr⟩ | ⟨-, -, hr⟩⟩
    · rw [hr]; exact hs.uparse bytes
    · rw [hr]; exact ⟨rfl, rfl⟩
    · exact absurd (by rw [hr]) hfail

/-- A request that makes no frame, or fails to, leaves nothing to send where there was nothing. -/
theorem after {i : Instr} (h : makesFrame i = true → (after i s).status ≠ .ok) : NothingToSend (after i s) := by
  cases i with
  | ubuild => exact nothingToSend_ubuild (h rfl)
  | user => exact hs.user
  | uchunk => exact hs.uchunk
  | uparse rx => exact hs.uparse rx
  | upcmd => exact hs.upcmd (h rfl)
  | sparse efc rx => exact hs.sparse efc rx
  | cmdWr | cmdRd => exact nothingToSend_runOps_ubuild_user (h rfl)
  | replyOk flag q data trailing | replyErr flag q data trailing =>
    exact hs.uparse (replyBytes flag q data trailing)
  | chunk => exact hs.readChunk h
  | serial addr fc d0 d1 d2 ck => exact hs.sparse fc (serialFrameBytes addr fc d0 d1 d2 ck)
  | clr => exact ⟨rfl, rfl⟩
  | sbuild | setaddr | unassigned9 | unassignedA | unassignedB | unassignedC | unassignedD | unassignedE
  | unassignedF => exact ⟨hs.frame, hs.serialized⟩

/-- Along a run in which no request makes a frame there stays nothing to send. -/
theorem runRequests {is : List Instr} {u : State} (hno : noNewFrame is s)
    (hu : runRequests is s = .next u) : NothingToSend u := by
  induction is generalizing s with
  | nil => cases hu; exact hs
  | cons i is ih =>
    obtain ⟨hfail, hrest⟩ := hno _ (exec_eq_next i s)
    simp only [Machine.runRequests, exec_eq_next] at hu
    exact ih (hs.after hfail) hrest hu

end NothingToSend

/-- Settles O19: the failed UBUILD leaves nothing to send, and the run after it keeps that. -/
theorem failedBuildSendsNothing : Obligations.FailedBuildSendsNothing := by
  intro dir seq cmd pay s t u is ht hfail hno hu
  obtain rfl := exec_next_iff.1 ht
  have hnothing : NothingToSend u := (nothingToSend_ubuild hfail).runRequests hno hu
  exact ⟨congrArg Host.Outcome.next (user_of_none u hnothing.frame),
    congrArg Host.Outcome.next (uchunk_of_none u hnothing.serialized)⟩

end Sys2Proof.Machine
end

section
/-! The USB receive operations (41_usb_rx.md): what UPARSE and UPCMD do (R140, R141), which bytes of a received string
a parsed reply is made of (R143, R144), and that serializing and parsing undo each other (R142, R145). -/

namespace Sys2Proof.Machine

open Safety

/-! ## The two operations (R140, R141) -/

/-- Settles O4: a string of at least four bytes is a header and the rest, which holds the announced data or not. -/
theorem uparseParsesReply : Obligations.UparseParsesReply := by
  intro rx s
  refine ⟨fun h => congrArg Host.Outcome.next (uparse_of_short s h), ?_⟩
  rintro b0 b1 b2 b3 rest rfl
  exact ⟨fun h => congrArg Host.Outcome.next (uparse_of_truncated s b0 b1 h),
    fun h => ⟨_, congrArg Host.Outcome.next (uparse_of_whole s b0 b1 h), rfl, rfl, rfl, toNat_fromLe16 b2 b3, rfl⟩⟩

/-- Settles O5: with a valid R the three ranges of LEN, and in the middle one the fields of the command view. -/
theorem upcmdGivesCommandView : Obligations.UpcmdGivesCommandView := by
  intro s
  refine ⟨fun h => congrArg Host.Outcome.next (upcmd_of_none s h), fun r h hr => ⟨fun hlen => ?_, fun hlen => ?_,
    fun h2 hlen => ⟨commandView r, ?_, commandView_fields hr h2⟩⟩⟩
  · exact congrArg Host.Outcome.next (upcmd_of_lengthTooSmall s h hlen)
  · exact congrArg Host.Outcome.next (upcmd_of_payloadTooLarge s h (by omega))
  · exact congrArg Host.Outcome.next (upcmd_of_fits s h h2 (by omega))

/-! ## What an OK tells -/

section

variable {s : State}

/-- UPARSE ends OK on a whole reply only (R140). -/
theorem uparse_whole_of_ok {rx : ByteString} (h : (uparse rx s).status = .ok) :
    ∃ flag seq l0 l1 rest, rx = flag :: seq :: l0 :: l1 :: rest ∧ l0.toNat + 256 * l1.toNat ≤ rest.length ∧
      uparse rx s = { s with
        r := some ⟨flag, flag.getLsbD 5, seq, fromLe16 l0 l1, rest.take (l0.toNat + 256 * l1.toNat)⟩
        status := .ok } := by
  rcases uparse_cases s rx with ⟨-, hp⟩ | ⟨flag, seq, l0, l1, rest, hrx, ⟨-, hp⟩ | hwhole⟩
  · simp [hp] at h
  · simp [hp] at h
  · exact ⟨flag, seq, l0, l1, rest, hrx, hwhole⟩

/-- UPCMD ends OK only on a valid R with a command field and a payload that fits a frame (R141). -/
theorem upcmd_fits_of_ok (h : (upcmd s).status = .ok) :
    ∃ r, s.r = some r ∧ 2 ≤ r.len.toNat ∧ r.len.toNat ≤ 508 ∧
      upcmd s = { s with f := some (commandView r), sb := none, cq := none, status := .ok } := by
  rcases upcmd_cases s with ⟨-, hc⟩ | ⟨r, hr, ⟨-, hc⟩ | ⟨-, hc⟩ | hfits⟩
  · simp [hc] at h
  · simp [hc] at h
  · simp [hc] at h
  · exact ⟨r, hr, hfits⟩

end

/-- The reply UPARSE reads from a whole string is sound (R29, R30). -/
theorem replyOk_of_whole {l0 l1 : Byte} {rest : ByteString} (flag seq : Byte)
    (h : l0.toNat + 256 * l1.toNat ≤ rest.length) :
    ReplyOk ⟨flag, flag.getLsbD 5, seq, fromLe16 l0 l1, rest.take (l0.toNat + 256 * l1.toNat)⟩ :=
  ⟨by rw [toNat_fromLe16, List.length_take, Nat.min_eq_left h], rfl⟩

/-! ## Build, serialize, parse, view (R142) -/

theorem commandFlag_eq_flagOf (d : Dir) : commandFlag d = flagOf d := by
  cases d with
  | write => exact commandFlag_write
  | read => exact commandFlag_read

/-- The serialized bytes alone, without padding, parse to the frame's reply. -/
theorem uparse_serializeFrame_b (s : State) {f : CommandFrame} (h : FrameOk f) :
    uparse (serializeFrame f).b s = { s with
      r := some ⟨commandFlag f.dir, false, f.seq, BitVec.ofNat 16 (f.n + 2), le16 f.cmd.toNat ++ f.pay⟩
      status := .ok } := by
  simpa using uparse_serializeFrame s h []

/-- A command field stands at the head of the data of its frame's reply (R91). -/
theorem fieldAt_zero_le16_half (c : Half) (rest : ByteString) : FieldAt (le16 c.toNat ++ rest) 0 c.toNat :=
  ⟨_, _, rfl, rfl, by rw [← toNat_fromLe16, fromLe16_le16_half]⟩

/-- Settles O22: the serialized bytes of the built frame parse to its reply, whose command view is the frame. -/
theorem roundTripRestoresFrame : Obligations.RoundTripRestoresFrame := by
  intro dir seq cmd pay s h
  have hf := frameOk_of_fits h dir seq cmd
  have hlen : (BitVec.ofNat 16 (pay.length + 2)).toNat = pay.length + 2 := by
    rw [BitVec.toNat_ofNat]
    omega
  refine ⟨_, _, _, _, _, _, congrArg Host.Outcome.next (ubuild_of_fits s h dir seq cmd), rfl, rfl,
    congrArg Host.Outcome.next (user_of_some _ rfl), rfl, rfl, length_serializeFrame_b hf,
    congrArg Host.Outcome.next (uparse_serializeFrame_b _ hf), rfl, rfl,
    commandFlag_eq_flagOf dir, rfl, rfl, hlen, fieldAt_zero_le16_half cmd pay, rfl,
    congrArg Host.Outcome.next (upcmd_of_fits _ rfl ?_ ?_), rfl, congrArg some (commandView_parsed hf false)⟩
  · change 2 ≤ (BitVec.ofNat 16 (pay.length + 2)).toNat
    omega
  · change (BitVec.ofNat 16 (pay.length + 2)).toNat ≤ 508
    omega

/-! ## The bytes a reply is made of (R143, R144) -/

section

variable {s : State}

/-- A whole reply is read from the front of the string: what follows it is not looked at. -/
theorem uparse_append_of_ok {rx : ByteString} (h : (uparse rx s).status = .ok) (pad : ByteString) :
    uparse (rx ++ pad) s = uparse rx s := by
  obtain ⟨flag, seq, l0, l1, rest, rfl, hwhole, hp⟩ := uparse_whole_of_ok h
  have hlong : l0.toNat + 256 * l1.toNat ≤ (rest ++ pad).length := by
    rw [List.length_append]
    omega
  rw [hp, List.cons_append, List.cons_append, List.cons_append, List.cons_append,
    uparse_of_whole s flag seq hlong, List.take_append_of_le_length hwhole]

/-- The first bytes of a string that holds a header: the header and the first bytes of the rest. -/
theorem take_header_add (flag seq l0 l1 : Byte) (rest : ByteString) (n : Nat) :
    (flag :: seq :: l0 :: l1 :: rest).take (4 + n) = flag :: seq :: l0 :: l1 :: rest.take n := by
  rw [Nat.add_comm]
  rfl

/-- Less than a header is not enough (R144). -/
theorem uparse_take_of_lt_four (rx : ByteString) {j : Nat} (h : j < 4) :
    uparse (rx.take j) s = { s with r := none, status := .shortReply } :=
  uparse_of_short s (Nat.lt_of_le_of_lt (List.length_take_le j rx) h)

/-- The header and the announced data are enough (R144). -/
theorem uparse_take_whole {l0 l1 : Byte} {rest : ByteString} (flag seq : Byte)
    (h : l0.toNat + 256 * l1.toNat ≤ rest.length) :
    uparse ((flag :: seq :: l0 :: l1 :: rest).take (4 + (l0.toNat + 256 * l1.toNat))) s =
      uparse (flag :: seq :: l0 :: l1 :: rest) s := by
  have htake : l0.toNat + 256 * l1.toNat ≤ (rest.take (l0.toNat + 256 * l1.toNat)).length := by
    rw [List.length_take, Nat.min_eq_left h]
  rw [take_header_add, uparse_of_whole s flag seq htake, uparse_of_whole s flag seq h, List.take_take, Nat.min_self]

/-- The header and less than the announced data are not enough (R144). -/
theorem uparse_take_of_lt {l0 l1 : Byte} {n : Nat} (flag seq : Byte) (rest : ByteString)
    (h : n < l0.toNat + 256 * l1.toNat) :
    uparse ((flag :: seq :: l0 :: l1 :: rest).take (4 + n)) s =
      { s with r := none, status := .truncatedPayload } := by
  rw [take_header_add]
  exact uparse_of_truncated s flag seq (Nat.lt_of_le_of_lt (List.length_take_le n rest) h)

end

/-- Settles O23: the joined chunks of a frame are its serialized bytes, which parse, and padding. -/
theorem trailingBytesAreIgnored : Obligations.TrailingBytesAreIgnored := by
  constructor
  · intro rx pad s u hu hok
    obtain rfl := exec_next_iff.1 hu
    exact congrArg Host.Outcome.next (uparse_append_of_ok hok pad)
  · intro dir seq cmd pay s t v sb cq h ht hsb hcq
    have hf := frameOk_of_fits h dir seq cmd
    cases (runPseudo_usend h dir seq cmd s).symm.trans ht
    cases hsb
    cases hcq
    rw [flatten_cutChunks (length_serializeFrame_b hf)]
    exact congrArg Host.Outcome.next (uparse_append_of_ok (by rw [uparse_serializeFrame_b v hf]) _)

/-- Settles O24: the string is a header and at least the announced data, so a prefix has all of both, a part of the
header, or the header and a part of the data. -/
theorem shorterStringsFailToParse : Obligations.ShorterStringsFailToParse := by
  intro rx s u r hu hok hr
  obtain rfl := exec_next_iff.1 hu
  obtain ⟨flag, seq, l0, l1, rest, rfl, hwhole, hp⟩ := uparse_whole_of_ok hok
  have hlen : r.len.toNat = l0.toNat + 256 * l1.toNat := by
    cases (congrArg State.r hp).symm.trans hr
    exact toNat_fromLe16 l0 l1
  rw [hlen]
  refine ⟨congrArg Host.Outcome.next (uparse_take_whole flag seq hwhole),
    fun j hj => congrArg Host.Outcome.next (uparse_take_of_lt_four _ hj), fun j h4 hj => ?_⟩
  obtain ⟨n, rfl⟩ := Nat.exists_eq_add_of_le h4
  exact congrArg Host.Outcome.next (uparse_take_of_lt flag seq rest (by omega))

/-! ## Parse, view, serialize (R145) -/

/-- The flag byte a parsed frame is serialized with again, by bit 7 of the one received (R141, R81). -/
theorem commandFlag_directionOf_eq_bit (b : Byte) :
    commandFlag (directionOf b) = if b.getLsbD 7 then 0xC0 else 0x40 := by
  rw [directionOf_eq_bit]
  split
  · exact commandFlag_read
  · exact commandFlag_write

/-- The frame that a sound reply with a command field is viewed as serializes to the reply's sequence byte, length
and data, behind the flag byte of its direction. -/
theorem serializeFrame_commandView_b {r : ReplyFrame} (hr : ReplyOk r) (h2 : 2 ≤ r.len.toNat)
    (h508 : r.len.toNat ≤ 508) : (serializeFrame (commandView r)).b =
      commandFlag (directionOf r.flag) :: r.seq :: (le16 r.len.toNat ++ r.data) := by
  obtain ⟨flag, err, seq, len, data⟩ := r
  have hlen : data.length = len.toNat := hr.length
  have hdata : 2 ≤ data.length := hlen ▸ h2
  match data with
  | [] | [_] => simp at hdata
  | c0 :: c1 :: pay =>
    have hpay : pay.length + 2 = len.toNat := hlen
    have hfits : pay.length + 2 ≤ 508 := hpay.trans_le h508
    rw [commandView_of_data rfl hlen, serializeFrame_b ⟨rfl, show pay.length + 6 ≤ 512 by omega⟩, hpay,
      le16_toNat_fromLe16]
    rfl

/-- What a whole string parses to is viewed and serialized as the string's own bytes, but for the flag byte. -/
theorem serializeFrame_commandView_b_of_whole {seq l0 l1 : Byte} {rest : ByteString} (flag : Byte)
    (hwhole : l0.toNat + 256 * l1.toNat ≤ rest.length) (h2 : 2 ≤ (fromLe16 l0 l1).toNat)
    (h508 : (fromLe16 l0 l1).toNat ≤ 508) :
    (serializeFrame (commandView
      ⟨flag, flag.getLsbD 5, seq, fromLe16 l0 l1, rest.take (l0.toNat + 256 * l1.toNat)⟩)).b =
        (commandFlag (directionOf flag) :: seq :: l0 :: l1 :: rest).take (4 + (fromLe16 l0 l1).toNat) := by
  rw [serializeFrame_commandView_b (replyOk_of_whole flag seq hwhole) h2 h508, take_header_add,
    le16_toNat_fromLe16, toNat_fromLe16]
  rfl

/-- Settles O25: the reply's fields are the received bytes, and the flag byte is made anew from its bit 7. -/
theorem reserializationReturnsBytes : Obligations.ReserializationReturnsBytes := by
  intro b0 tail s t u r ht htok hr hu huok
  obtain rfl := exec_next_iff.1 ht
  obtain rfl := exec_next_iff.1 hu
  obtain ⟨flag, seq, l0, l1, rest, hrx, hwhole, hp⟩ := uparse_whole_of_ok htok
  obtain ⟨rfl, rfl⟩ := List.cons.inj hrx
  obtain ⟨r', hr', h2, h508, hc⟩ := upcmd_fits_of_ok huok
  cases hr.symm.trans hr'
  cases (congrArg State.r hp).symm.trans hr
  have hbytes := serializeFrame_commandView_b_of_whole b0 (seq := seq) hwhole h2 h508
  refine ⟨_, _, congrArg Host.Outcome.next (user_of_some _ (congrArg State.f hc)), rfl, rfl, ?_, fun hflag => ?_, ?_⟩
  · change (fromLe16 l0 l1).toNat - 2 + 6 = 4 + (fromLe16 l0 l1).toNat
    change 2 ≤ (fromLe16 l0 l1).toNat at h2
    omega
  · rw [hbytes, commandFlag_directionOf hflag]
  · have hsplit : 4 + (fromLe16 l0 l1).toNat = 3 + (fromLe16 l0 l1).toNat + 1 := Nat.add_right_comm 3 1 _
    rw [hbytes, commandFlag_directionOf_eq_bit, hsplit, List.take_succ_cons]

end Sys2Proof.Machine
end

section
/-! The serial unit (42_serial.md): which frame SBUILD makes and which windows SPARSE accepts (R160, R161), that a built
frame is accepted and a changed byte is not (R162, R163), and that the serial and the USB side do not influence each
other (R164). -/

namespace Sys2Proof.Machine

open Safety

/-! ## The checksum as a sum of bytes (R93) -/

/-- The checksum is the sum of the four bytes in the ring of bytes, so it can be solved for any one of them. -/
theorem checksumOk_iff_eq_add {fc d0 d1 d2 ck : Byte} : ChecksumOk fc d0 d1 d2 ck ↔ ck = fc + d0 + d1 + d2 := by
  have hsum : (fc + d0 + d1 + d2).toNat = (fc.toNat + d0.toNat + d1.toNat + d2.toNat) % 256 := by
    simp only [BitVec.toNat_add]
    omega
  rw [ChecksumOk, ← hsum, BitVec.toNat_inj]

theorem checksumOk_serialChecksum (fc d0 d1 d2 : Byte) : ChecksumOk fc d0 d1 d2 (serialChecksum fc d0 d1 d2) :=
  toNat_serialChecksum fc d0 d1 d2

/-- Two changes that cancel leave the checksum (R163). -/
theorem checksumOk_add_sub {fc d0 d1 d2 ck : Byte} (h : ChecksumOk fc d0 d1 d2 ck) (k : Byte) :
    ChecksumOk fc (d0 + k) (d1 - k) d2 ck := by
  rw [checksumOk_iff_eq_add] at h ⊢
  rw [h]
  ring

/-! ## The two operations (R160, R161) -/

/-- Settles O6: the frame SBUILD makes carries the checksum of its own bytes. -/
theorem sbuildMakesSerialFrame : Obligations.SbuildMakesSerialFrame := fun fc d0 d1 d2 s =>
  ⟨_, checksumOk_serialChecksum fc d0 d1 d2, congrArg Host.Outcome.next (sbuild_eq s fc d0 d1 d2)⟩

section

variable {s : State} {efc : Byte}

theorem sparse_serialWire {d0 d1 d2 ck : Byte} (h : ChecksumOk efc d0 d1 d2 ck) :
    sparse efc (serialWire s.saddr efc d0 d1 d2 ck) s =
      { s with srx := some ⟨s.saddr, efc, d0, d1, d2, ck⟩, status := .ok } :=
  sparse_of_some s (validSerialFields_eq_some_iff.2 ⟨rfl, rfl, h, rfl⟩)

/-- A string that is no frame from SADDR with the expected function code and its own checksum is refused (R161). -/
theorem sparse_of_no_frame {rx : ByteString}
    (h : ∀ d0 d1 d2 ck, rx = serialWire s.saddr efc d0 d1 d2 ck → ¬ ChecksumOk efc d0 d1 d2 ck) :
    sparse efc rx s = { s with srx := none, status := .invalidResponse } := by
  refine sparse_of_none s (Option.eq_none_iff_forall_ne_some.2 fun x hx => ?_)
  obtain ⟨haddr, hfc, hck, hrx⟩ := validSerialFields_eq_some_iff.1 hx
  rw [haddr, hfc] at hrx
  exact h x.d0 x.d1 x.d2 x.ck hrx (hfc ▸ hck)

/-- SPARSE ends OK only on a frame from SADDR with the expected function code and its own checksum (R161). -/
theorem sparse_frame_of_ok {rx : ByteString} (h : (sparse efc rx s).status = .ok) :
    ∃ d0 d1 d2 ck, rx = serialWire s.saddr efc d0 d1 d2 ck ∧ ChecksumOk efc d0 d1 d2 ck := by
  by_contra hno
  rw [sparse_of_no_frame fun d0 d1 d2 ck hrx hck => hno ⟨d0, d1, d2, ck, hrx, hck⟩] at h
  cases h

end

/-- Settles O7: a frame with the expected fields is accepted, and nothing else is. -/
theorem sparseValidatesWindow : Obligations.SparseValidatesWindow := fun _ _ =>
  ⟨fun _ _ _ _ h => congrArg Host.Outcome.next (sparse_serialWire h),
    fun _ h => congrArg Host.Outcome.next (sparse_of_no_frame h)⟩

/-! ## Build, then parse (R162) -/

/-- Settles O26: SBUILD keeps SADDR, so what it made is a frame from SADDR with its own checksum. -/
theorem serialRoundTripMatches : Obligations.SerialRoundTripMatches := fun fc d0 d1 d2 s =>
  have hck := checksumOk_serialChecksum fc d0 d1 d2
  ⟨_, _, _, _, congrArg Host.Outcome.next (sbuild_eq s fc d0 d1 d2), rfl,
    congrArg Host.Outcome.next (sparse_serialWire hck), rfl, rfl, hck⟩

/-! ## Changed bytes (R163) -/

/-- One changed byte of an accepted frame makes no other accepted frame: the constants, the address and the function
code are the same in all of them, and the checksum determines each of its five bytes from the other four. -/
theorem not_checksumOk_of_set {addr efc d0 d1 d2 ck e0 e1 e2 ck' b : Byte} {i : Nat}
    (hck : ChecksumOk efc d0 d1 d2 ck) (hi : i < 10) (hb : (serialWire addr efc d0 d1 d2 ck)[i]? ≠ some b)
    (hset : (serialWire addr efc d0 d1 d2 ck).set i b = serialWire addr efc e0 e1 e2 ck') :
    ¬ ChecksumOk efc e0 e1 e2 ck' := by
  have hbyte : (serialWire addr efc e0 e1 e2 ck')[i]? = some b := by
    rw [← hset]
    exact List.getElem?_set_self hi
  intro hck'
  rw [checksumOk_iff_eq_add] at hck hck'
  match i, hi with
  | 0, _ | 1, _ | 2, _ | 3, _ | 8, _ | 9, _ => exact hb hbyte
  | 4, _ | 5, _ | 6, _ =>
    cases hset
    exact hb (congrArg some (by simpa using hck.symm.trans hck'))
  | 7, _ =>
    cases hset
    exact hb (congrArg some (hck.trans hck'.symm))

/-- Settles O27: a window with one changed byte is no frame that is accepted, and adding to one data byte what is taken
from the next gives one that is. -/
theorem oneChangedByteIsDetected : Obligations.OneChangedByteIsDetected := by
  intro efc rx s u hu hok
  obtain rfl := exec_next_iff.1 hu
  obtain ⟨d0, d1, d2, ck, rfl, hck⟩ := sparse_frame_of_ok hok
  constructor
  · intro i b hi hb
    exact congrArg Host.Outcome.next (sparse_of_no_frame fun _ _ _ _ => not_checksumOk_of_set hck hi hb)
  · intro x hx
    cases (congrArg State.srx (sparse_serialWire hck)).symm.trans hx
    exact congrArg Host.Outcome.next (sparse_serialWire (checksumOk_add_sub hck 1))

/-! ## The serial and the USB side (R164) -/

/-- Two states hold the same in the items the USB operations work on. -/
structure SameUsb (s s' : State) : Prop where
  f : s.f = s'.f
  sb : s.sb = s'.sb
  cq : s.cq = s'.cq
  r : s.r = s'.r

/-- Two states hold the same in the items the serial operations work on. -/
structure SameSerial (s s' : State) : Prop where
  saddr : s.saddr = s'.saddr
  stx : s.stx = s'.stx
  srx : s.srx = s'.srx

/-- A state with the USB groups and STATUS of another. -/
def State.withUsbOf (s t : State) : State :=
  { s with f := t.f, sb := t.sb, cq := t.cq, r := t.r, status := t.status }

/-- A state with the serial groups and STATUS of another. -/
def State.withSerialOf (s t : State) : State := { s with stx := t.stx, srx := t.srx, status := t.status }

theorem sameSerial_withUsbOf (s t : State) : SameSerial s (s.withUsbOf t) := ⟨rfl, rfl, rfl⟩

theorem sameUsb_withSerialOf (s t : State) : SameUsb s (s.withSerialOf t) := ⟨rfl, rfl, rfl, rfl⟩

/-- A USB operation writes the USB groups and STATUS only, and from the USB groups only. -/
theorem after_usb {i : Instr} (hi : isUsb i = true) {s s' : State} (h : SameUsb s s') :
    after i s' = s'.withUsbOf (after i s) := by
  cases i with
  | ubuild dir seq cmd pay =>
    obtain ⟨f, st, hu⟩ := exists_ubuild_eq dir seq cmd pay
    change ubuild dir seq cmd pay s' = s'.withUsbOf (ubuild dir seq cmd pay s)
    rw [hu s', hu s]
    simp [State.withUsbOf, h.r]
  | user =>
    change user s' = s'.withUsbOf (user s)
    cases hf : s.f with
    | none =>
      rw [user_of_none s hf, user_of_none s' (h.f ▸ hf)]
      simp [State.withUsbOf, h.f, h.sb, h.cq, h.r]
    | some f =>
      rw [user_of_some s hf, user_of_some s' (h.f ▸ hf)]
      simp [State.withUsbOf, h.f, h.r]
  | uchunk =>
    change uchunk s' = s'.withUsbOf (uchunk s)
    cases hsb : s.sb with
    | none =>
      rw [uchunk_of_none s hsb, uchunk_of_none s' (h.sb ▸ hsb)]
      simp [State.withUsbOf, h.f, h.sb, h.cq, h.r]
    | some sb =>
      rw [uchunk_of_some s hsb, uchunk_of_some s' (h.sb ▸ hsb)]
      simp [State.withUsbOf, h.f, h.sb, h.r]
  | uparse rx =>
    obtain ⟨r, st, hu⟩ := exists_uparse_eq rx
    change uparse rx s' = s'.withUsbOf (uparse rx s)
    rw [hu s', hu s]
    simp [State.withUsbOf, h.f, h.sb, h.cq]
  | upcmd =>
    change upcmd s' = s'.withUsbOf (upcmd s)
    cases hr : s.r with
    | none =>
      rw [upcmd_of_none s hr, upcmd_of_none s' (h.r ▸ hr)]
      simp [State.withUsbOf, h.f, h.sb, h.cq, h.r]
    | some r =>
      obtain ⟨f, st, hu⟩ := exists_upcmd_eq r
      rw [hu s hr, hu s' (h.r ▸ hr)]
      simp [State.withUsbOf, h.r]
  | sbuild | sparse | setaddr | clr | unassigned9 | unassignedA | unassignedB | unassignedC | unassignedD
  | unassignedE | unassignedF | cmdWr | cmdRd | replyOk | replyErr | chunk | serial => cases hi

/-- A serial operation writes the serial groups and STATUS only, and from SADDR and the serial groups only. -/
theorem after_serial {i : Instr} (hi : isSerial i = true) {s s' : State} (h : SameSerial s s') :
    after i s' = s'.withSerialOf (after i s) := by
  cases i with
  | sbuild fc d0 d1 d2 =>
    change sbuild fc d0 d1 d2 s' = s'.withSerialOf (sbuild fc d0 d1 d2 s)
    rw [sbuild_eq, sbuild_eq]
    simp [State.withSerialOf, h.saddr, h.srx]
  | sparse efc rx =>
    obtain ⟨x, st, hx⟩ := exists_sparse_eq s.saddr efc rx
    change sparse efc rx s' = s'.withSerialOf (sparse efc rx s)
    rw [hx s rfl, hx s' h.saddr.symm]
    simp [State.withSerialOf, h.stx]
  | ubuild | user | uchunk | uparse | upcmd | setaddr | clr | unassigned9 | unassignedA | unassignedB | unassignedC
  | unassignedD | unassignedE | unassignedF | cmdWr | cmdRd | replyOk | replyErr | chunk | serial => cases hi

theorem after_usb_self {i : Instr} (hi : isUsb i = true) (s : State) : after i s = s.withUsbOf (after i s) :=
  after_usb hi ⟨rfl, rfl, rfl, rfl⟩

theorem after_serial_self {i : Instr} (hi : isSerial i = true) (s : State) :
    after i s = s.withSerialOf (after i s) :=
  after_serial hi ⟨rfl, rfl, rfl⟩

/-- A USB operation leaves what a serial one works on. -/
theorem sameSerial_after_usb {i : Instr} (hi : isUsb i = true) (s : State) : SameSerial s (after i s) := by
  rw [after_usb_self hi]
  exact sameSerial_withUsbOf s _

/-- A serial operation leaves what a USB one works on. -/
theorem sameUsb_after_serial {i : Instr} (hi : isSerial i = true) (s : State) : SameUsb s (after i s) := by
  rw [after_serial_self hi]
  exact sameUsb_withSerialOf s _

/-- A USB and a serial operation commute, but for the STATUS of the later one. -/
theorem after_serial_after_usb {i j : Instr} (hi : isUsb i = true) (hj : isSerial j = true) (s : State) :
    after j (after i s) = { after i (after j s) with status := (after j s).status } :=
  calc after j (after i s)
      _ = (after i s).withSerialOf (after j s) := after_serial hj (sameSerial_after_usb hi s)
      _ = (s.withUsbOf (after i s)).withSerialOf (after j s) := by rw [← after_usb_self hi]
      _ = { (s.withSerialOf (after j s)).withUsbOf (after i s) with status := (after j s).status } := rfl
      _ = { (after j s).withUsbOf (after i s) with status := (after j s).status } := by rw [← after_serial_self hj]
      _ = { after i (after j s) with status := (after j s).status } := by
        rw [← after_usb hi (sameUsb_after_serial hj s)]

/-- Settles O29: each side's operations write their own items, as a function of their own items, so the two orders
write the same. -/
theorem serialAndUsbAreIndependent : Obligations.SerialAndUsbAreIndependent := by
  refine ⟨fun i hi s s' t t' ht ht' => ?_, fun i hi s s' t t' ht ht' => ?_,
    fun i j hi hj s a b c d ha hb hc hd => ?_⟩
  · obtain rfl := exec_next_iff.1 ht
    obtain rfl := exec_next_iff.1 ht'
    obtain ⟨hsaddr, hstx, hsrx⟩ := sameSerial_after_usb hi s
    refine ⟨hsaddr.symm, hstx.symm, hsrx.symm, fun hf hsb hcq hr => ?_⟩
    rw [after_usb hi ⟨hf, hsb, hcq, hr⟩]
    exact ⟨rfl, rfl, rfl, rfl, rfl⟩
  · obtain rfl := exec_next_iff.1 ht
    obtain rfl := exec_next_iff.1 ht'
    obtain ⟨hf, hsb, hcq, hr⟩ := sameUsb_after_serial hi s
    have hsaddr : (after i s).saddr = s.saddr := by rw [after_serial_self hi]; rfl
    refine ⟨hf.symm, hsb.symm, hcq.symm, hr.symm, hsaddr, fun hsaddr' hstx hsrx => ?_⟩
    rw [after_serial hi ⟨hsaddr', hstx, hsrx⟩]
    exact ⟨rfl, rfl, rfl⟩
  · obtain rfl := exec_next_iff.1 ha
    obtain rfl := exec_next_iff.1 hb
    obtain rfl := exec_next_iff.1 hc
    obtain rfl := exec_next_iff.1 hd
    rw [after_serial_after_usb hi hj]

end Sys2Proof.Machine
end

section
/-! The two operations that address and clear the block (43_system.md): SETADDR writes SADDR (R180), CLR drops every
result and keeps SADDR (R181). -/

namespace Sys2Proof.Machine

/-- Settles O8: executing SETADDR answers its effect, which is an update of SADDR and STATUS. -/
theorem setaddrWritesAddress : Obligations.SetaddrWritesAddress := fun a s =>
  congrArg Host.Outcome.next (setaddr_eq s a)

/-- Settles O9: executing CLR answers its effect, in which the six invalidations add up to one update. -/
theorem clrDropsEveryResult : Obligations.ClrDropsEveryResult := fun s =>
  congrArg Host.Outcome.next (clr_eq s)

end Sys2Proof.Machine
end

section
/-! The failure statuses (60_exceptions.md): how an operation can end and which failures it can raise (R220, R226), when
the failures of the source are raised (R221 to R224), and that STATUS is not sticky (R227). -/

namespace Sys2Proof.Machine

open Safety

/-! ## Invalidating groups (R21, R22) -/

theorem groupValue_invalidate (s : State) (g h : Group) :
    (s.invalidate g).groupValue h = if h = g then none else s.groupValue h := by
  cases g <;> cases h <;> rfl

theorem groupValue_foldl_invalidate (gs : List Group) (s : State) (h : Group) :
    (gs.foldl State.invalidate s).groupValue h = if h ∈ gs then none else s.groupValue h := by
  induction gs generalizing s with
  | nil => rfl
  | cons g gs ih =>
    rw [List.foldl_cons, ih, groupValue_invalidate]
    by_cases hg : h = g <;> by_cases hgs : h ∈ gs <;> simp [hg, hgs]

theorem groupValue_invalidateFrom (s : State) (g h : Group) :
    (s.invalidateFrom g).groupValue h = if h ∈ g :: g.laterStages then none else s.groupValue h :=
  groupValue_foldl_invalidate (g :: g.laterStages) s h

theorem saddr_invalidateFrom (s : State) (g : Group) : (s.invalidateFrom g).saddr = s.saddr := by
  cases g <;> rfl

theorem pending_invalidateFrom (s : State) (g : Group) : (s.invalidateFrom g).pending = s.pending := by
  cases g <;> rfl

/-! ## How an operation ends (R220, R226) -/

theorem keepsGroups_iff {st : Status} : st.keepsGroups = true ↔ st = .notReady ∨ st = .badRequest := by
  cases st <;> decide

/-- The "raised by" column of R220, for typed requests: an operand of the wrong type makes no instruction. -/
def RaisedBy (i : Instr) : Status → Prop
  | .ok => True
  | .payloadTooLarge => (∃ d q c p, i = .ubuild d q c p) ∨ i = .upcmd
  | .shortReply => ∃ rx, i = .uparse rx
  | .truncatedPayload => ∃ rx, i = .uparse rx
  | .invalidResponse => ∃ efc rx, i = .sparse efc rx
  | .lengthTooSmall => i = .upcmd
  | .notReady => i = .user ∨ i = .uchunk ∨ i = .upcmd
  | .badRequest => i ∈ unassigned

/-- The three ways request `i`, issued in state `s`, can end. -/
inductive Ending (i : Instr) (s t : State) : Prop
  /-- It completed. -/
  | completed (h : t.status = .ok)
  /-- It raised a status that leaves the groups as they were (R226 (b)). -/
  | refused (st : Status) (raised : RaisedBy i st) (keeps : st.keepsGroups = true) (h : t = s.finish st)
  /-- It raised a status that makes invalid the group it targets and the later stages, which are the groups it
  writes (R226 (c)). -/
  | failed (st : Status) (g : Group) (raised : RaisedBy i st) (drops : st.keepsGroups = false)
      (target : writes i = g :: g.laterStages) (h : t = (s.invalidateFrom g).finish st)

section

variable (s : State)

theorem ending_ubuild (dir : Dir) (seq : Byte) (cmd : Half) (pay : ByteString) :
    Ending (.ubuild dir seq cmd pay) s (ubuild dir seq cmd pay s) := by
  rcases Nat.lt_or_ge 512 (pay.length + 6) with hlen | hlen
  · exact .failed .payloadTooLarge .F (.inl ⟨_, _, _, _, rfl⟩) rfl rfl (ubuild_of_tooLong s hlen dir seq cmd)
  · exact .completed (by rw [ubuild_of_fits s hlen])

theorem ending_user : Ending .user s (user s) := by
  cases hf : s.f with
  | none => exact .refused .notReady (.inl rfl) rfl (user_of_none s hf)
  | some f => exact .completed (by rw [user_of_some s hf])

theorem ending_uchunk : Ending .uchunk s (uchunk s) := by
  cases hsb : s.sb with
  | none => exact .refused .notReady (.inr (.inl rfl)) rfl (uchunk_of_none s hsb)
  | some sb => exact .completed (by rw [uchunk_of_some s hsb])

theorem ending_uparse (rx : ByteString) : Ending (.uparse rx) s (uparse rx s) := by
  rcases uparse_cases s rx with ⟨-, h⟩ | ⟨flag, seq, l0, l1, rest, -, ⟨-, h⟩ | ⟨-, h⟩⟩
  · exact .failed .shortReply .R ⟨rx, rfl⟩ rfl rfl h
  · exact .failed .truncatedPayload .R ⟨rx, rfl⟩ rfl rfl h
  · exact .completed (by rw [h])

theorem ending_upcmd : Ending .upcmd s (upcmd s) := by
  rcases upcmd_cases s with ⟨-, h⟩ | ⟨r, -, ⟨-, h⟩ | ⟨-, h⟩ | ⟨-, -, h⟩⟩
  · exact .refused .notReady (.inr (.inr rfl)) rfl h
  · exact .failed .lengthTooSmall .F rfl rfl rfl h
  · exact .failed .payloadTooLarge .F (.inr rfl) rfl rfl h
  · exact .completed (by rw [h])

theorem ending_sparse (efc : Byte) (rx : ByteString) : Ending (.sparse efc rx) s (sparse efc rx s) := by
  rcases sparse_cases s efc rx with ⟨x, -, h⟩ | ⟨-, h⟩
  · exact .completed (by rw [h])
  · exact .failed .invalidResponse .SRX ⟨efc, rx, rfl⟩ rfl rfl h

theorem ending_of_mem_unassigned {i : Instr} (h : i ∈ unassigned) : Ending i s (after i s) :=
  .refused .badRequest h rfl (after_of_mem_unassigned h s)

/-- SBUILD, SETADDR and CLR only complete; the others end as their own lemma says. -/
theorem ending_operation {i : Instr} (hi : isOperation i = true) : Ending i s (after i s) := by
  cases i with
  | ubuild dir seq cmd pay => exact ending_ubuild s dir seq cmd pay
  | user => exact ending_user s
  | uchunk => exact ending_uchunk s
  | uparse rx => exact ending_uparse s rx
  | upcmd => exact ending_upcmd s
  | sparse efc rx => exact ending_sparse s efc rx
  | sbuild | setaddr | clr => exact .completed rfl
  | unassigned9 | unassignedA | unassignedB | unassignedC | unassignedD | unassignedE | unassignedF =>
    exact ending_of_mem_unassigned s (by simp [unassigned])
  | cmdWr | cmdRd | replyOk | replyErr | chunk | serial => cases hi

end

theorem Ending.raisedBy {i : Instr} {s t : State} (h : Ending i s t) : RaisedBy i t.status := by
  cases h with
  | completed h => rw [h]; trivial
  | refused st raised _ h => rw [h]; exact raised
  | failed st g raised _ _ h => rw [h]; exact raised

/-- Settles O32: a failed operation is one of the two failing endings, and in the second the groups it writes are the
target and its later stages. -/
theorem failureEntryIsPrecise : Obligations.FailureEntryIsPrecise := by
  intro i s t hi ht hfail
  obtain rfl := exec_next_iff.1 ht
  refine ⟨congrArg (Response.mk _) (responseOf_value_of_not_ok hfail i), ?_⟩
  cases ending_operation s hi with
  | completed h => exact absurd h hfail
  | refused st _ keeps h =>
    rw [h]
    refine ⟨fun _ => rfl, fun hready hbad => ?_⟩
    exact ((keepsGroups_iff.1 keeps).elim hready hbad).elim
  | failed st g _ drops target h =>
    rw [h, target]
    refine ⟨fun hkeeps => ?_, fun _ _ => ⟨List.cons_ne_nil _ _, fun k hk => ?_, fun k hk => ?_,
      saddr_invalidateFrom s g, pending_invalidateFrom s g⟩⟩
    · exact absurd (keepsGroups_iff.2 hkeeps) (by simp [State.finish, drops])
    · change (s.invalidateFrom g).valid k = false
      rw [valid_eq_isSome_groupValue, groupValue_invalidateFrom, if_pos hk, Option.isSome_none]
    · change (s.invalidateFrom g).groupValue k = _
      rw [groupValue_invalidateFrom, if_neg hk]

/-- Settles O33: the status an operation ends with is one that its row raises. -/
theorem statusesAreRaisedByTheirOperations : Obligations.StatusesAreRaisedByTheirOperations := by
  refine ⟨rfl, fun i s t hi ht => ?_⟩
  obtain rfl := exec_next_iff.1 ht
  have hraised {st : Status} (hst : (after i s).status = st) : RaisedBy i st :=
    hst ▸ (ending_operation s hi).raisedBy
  exact ⟨hraised, hraised, hraised, hraised, hraised, hraised, hraised⟩

/-! ## When the failures of the source are raised (R221 to R224) -/

theorem ubuild_status_eq_payloadTooLarge_iff (dir : Dir) (seq : Byte) (cmd : Half) (pay : ByteString) (s : State) :
    (ubuild dir seq cmd pay s).status = .payloadTooLarge ↔ pay.length + 6 > 512 := by
  rcases Nat.lt_or_ge 512 (pay.length + 6) with hlen | hlen
  · simp [ubuild_of_tooLong s hlen, hlen]
  · simp [ubuild_of_fits s hlen]; omega

theorem uparse_status_eq_shortReply_iff (rx : ByteString) (s : State) :
    (uparse rx s).status = .shortReply ↔ rx.length < 4 := by
  rcases uparse_cases s rx with ⟨hlen, h⟩ | ⟨flag, seq, l0, l1, rest, rfl, ⟨-, h⟩ | ⟨-, h⟩⟩
  · simp [h, hlen]
  all_goals simp [h]

theorem uparse_status_eq_truncatedPayload_iff (rx : ByteString) (s : State) :
    (uparse rx s).status = .truncatedPayload ↔
      rx.length ≥ 4 ∧ rx.length - 4 < (rx.getD 2 0).toNat + 256 * (rx.getD 3 0).toNat := by
  rcases uparse_cases s rx with ⟨hlen, h⟩ | ⟨flag, seq, l0, l1, rest, rfl, ⟨hrest, h⟩ | ⟨hrest, h⟩⟩
  · simp [h, hlen]
  · simp [h, hrest]
  · simp [h, hrest]

/-- The six tests of R161, byte by byte, pass exactly for the frames that SPARSE accepts. -/
theorem serialTests_iff {saddr efc : Byte} {rx : ByteString} :
    (rx.length = 10 ∧ rx.getD 0 0 = 0x55 ∧ rx.getD 1 0 = 0xAA ∧ rx.getD 8 0 = 0xDA ∧ rx.getD 9 0 = 0xC3 ∧
      rx.getD 2 0 = saddr ∧ rx.getD 3 0 = efc ∧
      ChecksumOk (rx.getD 3 0) (rx.getD 4 0) (rx.getD 5 0) (rx.getD 6 0) (rx.getD 7 0)) ↔
    ∃ x, validSerialFields saddr efc rx = some x := by
  simp only [validSerialFields_eq_some_iff]
  constructor
  · rintro ⟨hlen, h0, h1, h8, h9, haddr, hfc, hck⟩
    match rx, hlen with
    | [_, _, addr, fc, d0, d1, d2, ck, _, _], _ =>
      cases h0; cases h1; cases h8; cases h9
      exact ⟨⟨addr, fc, d0, d1, d2, ck⟩, haddr, hfc, hck, rfl⟩
  · rintro ⟨x, haddr, hfc, hck, rfl⟩
    exact ⟨rfl, rfl, rfl, rfl, rfl, haddr, hfc, hck⟩

theorem sparse_status_eq_invalidResponse_iff (efc : Byte) (rx : ByteString) (s : State) :
    (sparse efc rx s).status = .invalidResponse ↔ ¬ ∃ x, validSerialFields s.saddr efc rx = some x := by
  rcases sparse_cases s efc rx with ⟨x, hx, h⟩ | ⟨hx, h⟩ <;> simp [h, hx]

/-- Settles O34: each of the four failures, by the condition of its rule. -/
theorem sourceFailuresExactlyWhen : Obligations.SourceFailuresExactlyWhen := by
  refine ⟨fun dir seq cmd pay s t ht => ?_, fun rx s t ht => ?_, fun efc rx s t ht => ?_⟩
  · obtain rfl := exec_next_iff.1 ht
    exact ubuild_status_eq_payloadTooLarge_iff dir seq cmd pay s
  · obtain rfl := exec_next_iff.1 ht
    exact ⟨uparse_status_eq_shortReply_iff rx s, uparse_status_eq_truncatedPayload_iff rx s⟩
  · obtain rfl := exec_next_iff.1 ht
    refine (sparse_status_eq_invalidResponse_iff efc rx s).trans ?_
    simp only [← serialTests_iff, not_and_or, ne_eq]

/-! ## STATUS is not sticky (R227) -/

theorem after_usb_withStatus {i : Instr} (hi : isUsb i = true) (s : State) (st : Status) :
    after i { s with status := st } = after i s :=
  calc after i { s with status := st }
      _ = s.withUsbOf (after i s) := after_usb hi ⟨rfl, rfl, rfl, rfl⟩
      _ = after i s := (after_usb_self hi s).symm

theorem after_serial_withStatus {i : Instr} (hi : isSerial i = true) (s : State) (st : Status) :
    after i { s with status := st } = after i s :=
  calc after i { s with status := st }
      _ = s.withSerialOf (after i s) := after_serial hi ⟨rfl, rfl, rfl⟩
      _ = after i s := (after_serial_self hi s).symm

/-- Settles O30: the USB and the serial operations read items of their own side, of which STATUS is none; the others
read nothing. -/
theorem statusIsNotSticky : Obligations.StatusIsNotSticky := by
  intro i s st hi
  rw [exec_eq_next, exec_eq_next]
  refine congrArg Host.Outcome.next ?_
  cases i with
  | ubuild | user | uchunk | uparse | upcmd => exact after_usb_withStatus rfl s st
  | sbuild | sparse => exact after_serial_withStatus rfl s st
  | setaddr | clr | unassigned9 | unassignedA | unassignedB | unassignedC | unassignedD | unassignedE
  | unassignedF => rfl
  | cmdWr | cmdRd | replyOk | replyErr | chunk | serial => cases hi

end Sys2Proof.Machine
end

section
/-! The hazards between operations (70_reset_and_hazards.md section 3): a request out of pipeline order (R254), what UPCMD
and UPARSE do to the transmit side (R263), and an address changed between a serial request and its reply (R264). -/

namespace Sys2Proof.Machine

open Safety

/-! ## Requests out of pipeline order (R254) -/

/-- How an operation that needs group `g` answers in state `s`: `t` is NotReady and nothing else without the group, and
not NotReady with it. -/
def AnswersOrder (g : Group) (s t : State) : Prop :=
  (s.valid g = false → t = { s with status := .notReady }) ∧ (s.valid g = true → t.status ≠ .notReady)

theorem answersOrder_of_invalid {g : Group} {s t : State} (hg : s.valid g = false)
    (h : t = { s with status := .notReady }) : AnswersOrder g s t :=
  ⟨fun _ => h, fun hg' => by simp [hg] at hg'⟩

theorem answersOrder_of_valid {g : Group} {s t : State} (hg : s.valid g = true) (h : t.status ≠ .notReady) :
    AnswersOrder g s t :=
  ⟨fun hg' => by simp [hg] at hg', fun _ => h⟩

section

variable (s : State)

theorem answersOrder_user : AnswersOrder .F s (user s) := by
  cases hf : s.f with
  | none => exact answersOrder_of_invalid (congrArg Option.isSome hf) (user_of_none s hf)
  | some f => exact answersOrder_of_valid (congrArg Option.isSome hf) (by simp [user_of_some s hf])

theorem answersOrder_uchunk : AnswersOrder .SB s (uchunk s) := by
  cases hsb : s.sb with
  | none => exact answersOrder_of_invalid (congrArg Option.isSome hsb) (uchunk_of_none s hsb)
  | some sb => exact answersOrder_of_valid (congrArg Option.isSome hsb) (by simp [uchunk_of_some s hsb])

theorem answersOrder_upcmd : AnswersOrder .R s (upcmd s) := by
  rcases upcmd_cases s with ⟨hr, h⟩ | ⟨r, hr, hends⟩
  · exact answersOrder_of_invalid (congrArg Option.isSome hr) h
  · refine answersOrder_of_valid (congrArg Option.isSome hr) ?_
    rcases hends with ⟨-, h⟩ | ⟨-, h⟩ | ⟨-, -, h⟩ <;> simp [h]

end

/-- Settles O35: each of the three operations tests the valid bit of the group it reads before all else, and none of its
later outcomes is NotReady. -/
theorem outOfOrderIsNotReady : Obligations.OutOfOrderIsNotReady := by
  intro i g hig s t ht
  obtain rfl := exec_next_iff.1 ht
  rcases hig with ⟨rfl, rfl⟩ | ⟨rfl, rfl⟩ | ⟨rfl, rfl⟩
  · exact answersOrder_user s
  · exact answersOrder_uchunk s
  · exact answersOrder_upcmd s

/-! ## The receive operations and the transmit side (R263) -/

/-- Settles O36: with R valid each outcome of UPCMD drops SB and CQ and keeps R, and UPARSE updates R and STATUS alone. -/
theorem upcmdOverwritesTransmitFrame : Obligations.UpcmdOverwritesTransmitFrame := by
  refine ⟨fun s t hvalid ht => ?_, fun rx s t ht => ?_⟩
  · obtain ⟨r, hr⟩ := Option.isSome_iff_exists.1 hvalid
    obtain ⟨f, st, hupcmd⟩ := exists_upcmd_eq r
    obtain rfl : t = { s with f := f, sb := none, cq := none, status := st } :=
      (exec_next_iff.1 ht).trans (hupcmd s hr)
    exact ⟨rfl, rfl, rfl⟩
  · obtain ⟨r, st, huparse⟩ := exists_uparse_eq rx
    obtain rfl : t = { s with r := r, status := st } := (exec_next_iff.1 ht).trans (huparse s)
    rfl

/-! ## An address changed between request and reply (R264) -/

/-- A frame from another address is refused, whatever else it holds (R161). -/
theorem sparse_serialWire_of_ne_saddr {s : State} {addr : Byte} (h : s.saddr ≠ addr) (efc fc d0 d1 d2 ck : Byte) :
    sparse efc (serialWire addr fc d0 d1 d2 ck) s = { s with srx := none, status := .invalidResponse } := by
  refine sparse_of_no_frame fun e0 e1 e2 ck' heq => absurd ?_ h
  have haddr : (serialWire addr fc d0 d1 d2 ck)[2]? = (serialWire s.saddr efc e0 e1 e2 ck')[2]? := by rw [heq]
  exact (Option.some.inj haddr).symm

/-- Settles O28: the frame in STX carries the address of the state SBUILD ran in, which is no longer SADDR. -/
theorem setaddrBetweenBreaksReply : Obligations.SetaddrBetweenBreaksReply := by
  intro fc d0 d1 d2 a s t u x ht hx hu ha
  obtain rfl := exec_next_iff.1 ht
  obtain rfl := exec_next_iff.1 hu
  cases hx
  exact congrArg Host.Outcome.next (sparse_serialWire_of_ne_saddr ha ..)

end Sys2Proof.Machine
end

section
/-! The invariant of the block (R22, R26 to R32): it holds after reset, every step keeps it, and in a state that meets
it a buffer holds exactly the used bytes of its group (R36). -/

namespace Sys2Proof.Machine

open Safety

/-! ## The bytes of a buffer (R36) -/

section

variable {s : State} (a : Nat)

theorem readByte_fPay {f : CommandFrame} (h : s.f = some f) : s.readByte .fPay a = f.pay[a]? := by
  simp [State.readByte, State.buffer, h]

theorem readByte_sbB {sb : SerializedBytes} (h : s.sb = some sb) : s.readByte .sbB a = sb.b[a]? := by
  simp [State.readByte, State.buffer, h]

theorem readByte_cqC {cq : ChunkQueue} (h : s.cq = some cq) (k : Nat) :
    s.readByte (.cqC k) a = cq.c[k]?.bind (·[a]?) := by
  simp [State.readByte, State.buffer, h]

theorem readByte_rData {r : ReplyFrame} (h : s.r = some r) : s.readByte .rData a = r.data[a]? := by
  simp [State.readByte, State.buffer, h]

theorem readByte_stxB {x : SerialTransmit} (h : s.stx = some x) : s.readByte .stxB a = x.b[a]? := by
  simp [State.readByte, State.buffer, h]

end

/-- Byte `a` of chunk `k` of a queue of whole chunks (R86, R87). -/
theorem isSome_chunkByte_iff {sb : SerializedBytes} {cq : ChunkQueue} (h : ChunksOf sb cq) (k a : Nat) :
    (cq.c[k]?.bind (·[a]?)).isSome = true ↔ k < cq.k ∧ a < 64 := by
  rcases Nat.lt_or_ge k cq.k with hk | hk
  · obtain ⟨w, hw, hlen, -⟩ := h.bytes k hk
    simp [hw, hlen, hk]
  · rw [List.getElem?_eq_none (h.length.trans_le hk)]
    simp [Nat.not_lt.2 hk]

/-- Settles O45: each buffer has the length that its clause of the invariant gives it. -/
theorem buffersHoldExactlyUsedBytes : Obligations.BuffersHoldExactlyUsedBytes := by
  intro s hs
  refine ⟨fun f hf => ?_, fun sb hsb => ?_, fun cq hcq => ?_, fun r hr a => ?_, fun x hx a => ?_⟩
  · obtain ⟨hlen, hfits⟩ := hs.frame f hf
    exact ⟨by omega, fun a => by simp [readByte_fPay a hf, hlen]⟩
  · obtain ⟨f, hf, hser⟩ := hs.serialized sb hsb
    have hfits := (hs.frame f hf).fits
    exact ⟨hser.total.trans_le hfits, fun a => by simp [readByte_sbB a hsb, hser.length]⟩
  · obtain ⟨sb, hsb, hchunks⟩ := hs.chunks cq hcq
    obtain ⟨f, hf, hser⟩ := hs.serialized sb hsb
    have hfits := (hs.frame f hf).fits
    have htotal := hser.total
    have hcount := hchunks.count
    exact ⟨by omega, by omega, fun k a => by rw [readByte_cqC a hcq, isSome_chunkByte_iff hchunks]⟩
  · simp [readByte_rData a hr, (hs.reply r hr).length]
  · obtain ⟨addr, fc, d0, d1, d2, ck, hb, -⟩ := hs.transmit x hx
    simp [readByte_stxB a hx, hb, serialWire]

/-! ## Reset -/

/-- Settles O42: after reset no group is valid. -/
theorem resetMeetsInvariant : Obligations.ResetMeetsInvariant := fun _ =>
  ⟨nofun, nofun, nofun, nofun, nofun, nofun⟩

/-! ## The frame UPCMD makes (R141) -/

/-- The command view of a sound reply in the range of R141 is a sound frame. -/
theorem frameOk_commandView {r : ReplyFrame} (hr : ReplyOk r) (h2 : 2 ≤ r.len.toNat) (h508 : r.len.toNat ≤ 508) :
    FrameOk (commandView r) := by
  obtain ⟨-, -, -, hn, hpay⟩ := commandView_fields hr h2
  refine ⟨?_, by omega⟩
  rw [hpay, hn, List.length_drop, hr.length]

end Sys2Proof.Machine

namespace Sys2Proof.Safety.Inv

open Machine

/-! ## One rule per group written: what is put there must be sound, and later stages are dropped (R22) -/

section

variable {s : State} (h : Inv s) (st : Status)

include h

theorem withStatus : Inv { s with status := st } :=
  ⟨h.frame, h.serialized, h.chunks, h.reply, h.transmit, h.receive⟩

theorem withPending (rest : List Entry) : Inv { s with pending := rest } :=
  ⟨h.frame, h.serialized, h.chunks, h.reply, h.transmit, h.receive⟩

theorem withFrame {f : Option CommandFrame} (hf : ∀ x, f = some x → FrameOk x) :
    Inv { s with f := f, sb := none, cq := none, status := st } :=
  ⟨hf, nofun, nofun, h.reply, h.transmit, h.receive⟩

theorem withSerialized {f : CommandFrame} {sb : SerializedBytes} (hf : s.f = some f) (hsb : SerializedOf f sb) :
    Inv { s with sb := some sb, cq := none, status := st } :=
  ⟨h.frame, fun _ hx => ⟨f, hf, Option.some.inj hx ▸ hsb⟩, nofun, h.reply, h.transmit, h.receive⟩

theorem withChunks {sb : SerializedBytes} {cq : ChunkQueue} (hsb : s.sb = some sb) (hcq : ChunksOf sb cq) :
    Inv { s with cq := some cq, status := st } :=
  ⟨h.frame, h.serialized, fun _ hx => ⟨sb, hsb, Option.some.inj hx ▸ hcq⟩, h.reply, h.transmit, h.receive⟩

theorem withReply {r : Option ReplyFrame} (hr : ∀ x, r = some x → ReplyOk x) :
    Inv { s with r := r, status := st } :=
  ⟨h.frame, h.serialized, h.chunks, hr, h.transmit, h.receive⟩

theorem withTransmit {x : SerialTransmit} (hx : TransmitOk x) : Inv { s with stx := some x, status := st } :=
  ⟨h.frame, h.serialized, h.chunks, h.reply, fun _ hy => Option.some.inj hy ▸ hx, h.receive⟩

theorem withReceive {x : Option SerialReceive} (hx : ∀ y, x = some y → ReceiveOk y) :
    Inv { s with srx := x, status := st } :=
  ⟨h.frame, h.serialized, h.chunks, h.reply, h.transmit, hx⟩

end

/-! ## Every operation, instruction and refused entry keeps the invariant -/

section

variable {s : State} (h : Inv s)

include h

theorem ubuild (dir : Dir) (seq : Byte) (cmd : Half) (pay : ByteString) : Inv (ubuild dir seq cmd pay s) := by
  rcases Nat.lt_or_ge 512 (pay.length + 6) with hlen | hlen
  · rw [ubuild_of_tooLong s hlen]
    exact h.withFrame _ nofun
  · rw [ubuild_of_fits s hlen]
    exact h.withFrame _ fun _ hx => Option.some.inj hx ▸ frameOk_of_fits hlen dir seq cmd

theorem user : Inv (user s) := by
  cases hf : s.f with
  | none => rw [user_of_none s hf]; exact h.withStatus _
  | some f => rw [user_of_some s hf]; exact h.withSerialized _ hf (serializedOf_serializeFrame (h.frame f hf))

theorem uchunk : Inv (uchunk s) := by
  cases hsb : s.sb with
  | none => rw [uchunk_of_none s hsb]; exact h.withStatus _
  | some sb =>
    obtain ⟨f, -, hser⟩ := h.serialized sb hsb
    rw [uchunk_of_some s hsb]
    exact h.withChunks _ hsb (chunksOf_cutChunks hser.length)

theorem uparse (rx : ByteString) : Inv (uparse rx s) := by
  rcases uparse_cases s rx with ⟨-, hp⟩ | ⟨flag, seq, l0, l1, rest, -, ⟨-, hp⟩ | ⟨hwhole, hp⟩⟩
  · rw [hp]; exact h.withReply _ nofun
  · rw [hp]; exact h.withReply _ nofun
  · rw [hp]; exact h.withReply _ fun _ hx => Option.some.inj hx ▸ replyOk_of_whole flag seq hwhole

theorem upcmd : Inv (upcmd s) := by
  rcases upcmd_cases s with ⟨-, hc⟩ | ⟨r, hr, ⟨-, hc⟩ | ⟨-, hc⟩ | ⟨h2, h508, hc⟩⟩
  · rw [hc]; exact h.withStatus _
  · rw [hc]; exact h.withFrame _ nofun
  · rw [hc]; exact h.withFrame _ nofun
  · rw [hc]; exact h.withFrame _ fun _ hx => Option.some.inj hx ▸ frameOk_commandView (h.reply r hr) h2 h508

theorem sbuild (fc d0 d1 d2 : Byte) : Inv (sbuild fc d0 d1 d2 s) := by
  rw [sbuild_eq]
  exact h.withTransmit _ ⟨s.saddr, fc, d0, d1, d2, _, rfl, checksumOk_serialChecksum fc d0 d1 d2⟩

theorem sparse (efc : Byte) (rx : ByteString) : Inv (sparse efc rx s) := by
  rcases sparse_cases s efc rx with ⟨x, hx, hp⟩ | ⟨-, hp⟩
  · obtain ⟨-, -, hok, -⟩ := validSerialFields_eq_some_iff.1 hx
    rw [hp]; exact h.withReceive _ fun _ hy => Option.some.inj hy ▸ hok
  · rw [hp]; exact h.withReceive _ nofun

omit h in
theorem clr (s : State) : Inv (clr s) := by
  rw [clr_eq]
  exact ⟨nofun, nofun, nofun, nofun, nofun, nofun⟩

theorem setaddr (a : Byte) : Inv (setaddr a s) :=
  ⟨h.frame, h.serialized, h.chunks, h.reply, h.transmit, h.receive⟩

theorem runOps_ubuild_user (dir : Dir) (seq : Byte) (cmd : Half) (pay : ByteString) :
    Inv (runOps [Machine.ubuild dir seq cmd pay, Machine.user] s) :=
  runOps_keeps s (by simpa using ⟨fun _ ht => ht.ubuild dir seq cmd pay, fun _ ht => ht.user⟩) h

theorem readChunk (bytes : ByteString) : Inv (readChunk bytes s) := by
  cases hc : completesFrame bytes with
  | false => rw [readChunk_of_incomplete s hc]; exact h.withStatus _
  | true =>
    rw [readChunk_of_complete s hc]
    exact runOps_keeps s (by
      simpa using ⟨fun _ ht => ht.uparse bytes, fun _ ht => ht.upcmd, fun _ ht => ht.user, fun _ ht => ht.uchunk⟩) h

theorem after (i : Instr) : Inv (after i s) := by
  cases i with
  | ubuild dir seq cmd pay => exact h.ubuild dir seq cmd pay
  | user => exact h.user
  | uchunk => exact h.uchunk
  | uparse rx => exact h.uparse rx
  | upcmd => exact h.upcmd
  | sbuild fc d0 d1 d2 => exact h.sbuild fc d0 d1 d2
  | sparse efc rx => exact h.sparse efc rx
  | setaddr a => exact h.setaddr a
  | clr => exact .clr s
  | unassigned9 | unassignedA | unassignedB | unassignedC | unassignedD | unassignedE | unassignedF =>
    exact h.withStatus .badRequest
  | cmdWr seq cmd pay => exact h.runOps_ubuild_user .write seq cmd pay
  | cmdRd seq cmd pay => exact h.runOps_ubuild_user .read seq cmd pay
  | replyOk flag seq data trailing | replyErr flag seq data trailing =>
    exact h.uparse (replyBytes flag seq data trailing)
  | chunk bytes => exact h.readChunk bytes
  | serial addr fc d0 d1 d2 ck => exact h.sparse fc (serialFrameBytes addr fc d0 d1 d2 ck)

theorem rejectEntry (e : Entry) : Inv (rejectEntry e s) := by
  obtain ⟨format, bytes⟩ := e
  cases format with
  | op | usbCommand | usbWireChunk => exact h.withStatus .badRequest
  | usbReply => exact h.uparse bytes
  | serialFrame => exact h.sparse 0 bytes

end

end Sys2Proof.Safety.Inv
end

section
/-! Steps and runs (R24, log 3): no operation reads or writes the pending requests, so a step takes the oldest and
leaves the rest, and there is no state but the ten items (R20). Every step keeps the invariant, and a run serves every
request. -/

namespace Sys2Proof.Machine

open Safety

/-! ## The pending requests are no operation's business -/

/-- An effect neither reads nor writes the pending requests. -/
def IgnoresPending (op : State → State) : Prop :=
  ∀ (s : State) (rest : List Entry), op { s with pending := rest } = { op s with pending := rest }

theorem IgnoresPending.pending {op : State → State} (h : IgnoresPending op) (s : State) :
    (op s).pending = s.pending := by
  have hself := congrArg State.pending (h s s.pending)
  exact hself

theorem ignoresPending_usb {i : Instr} (hi : isUsb i = true) : IgnoresPending (after i) := fun s rest =>
  calc after i { s with pending := rest }
      _ = { s with pending := rest }.withUsbOf (after i s) :=
        after_usb (s := s) (s' := { s with pending := rest }) hi ⟨rfl, rfl, rfl, rfl⟩
      _ = { s.withUsbOf (after i s) with pending := rest } := rfl
      _ = { after i s with pending := rest } := by rw [← after_usb_self hi]

theorem ignoresPending_serial {i : Instr} (hi : isSerial i = true) : IgnoresPending (after i) := fun s rest =>
  calc after i { s with pending := rest }
      _ = { s with pending := rest }.withSerialOf (after i s) :=
        after_serial (s := s) (s' := { s with pending := rest }) hi ⟨rfl, rfl, rfl⟩
      _ = { s.withSerialOf (after i s) with pending := rest } := rfl
      _ = { after i s with pending := rest } := by rw [← after_serial_self hi]

theorem ignoresPending_ubuild (dir : Dir) (seq : Byte) (cmd : Half) (pay : ByteString) :
    IgnoresPending (ubuild dir seq cmd pay) := ignoresPending_usb (i := .ubuild dir seq cmd pay) rfl

theorem ignoresPending_user : IgnoresPending user := ignoresPending_usb (i := .user) rfl

theorem ignoresPending_uchunk : IgnoresPending uchunk := ignoresPending_usb (i := .uchunk) rfl

theorem ignoresPending_uparse (rx : ByteString) : IgnoresPending (uparse rx) :=
  ignoresPending_usb (i := .uparse rx) rfl

theorem ignoresPending_upcmd : IgnoresPending upcmd := ignoresPending_usb (i := .upcmd) rfl

theorem ignoresPending_sparse (efc : Byte) (rx : ByteString) : IgnoresPending (sparse efc rx) :=
  ignoresPending_serial (i := .sparse efc rx) rfl

theorem ignoresPending_runOps {ops : List (State → State)} (h : ∀ op ∈ ops, IgnoresPending op) :
    IgnoresPending (runOps ops) := by
  intro s rest
  induction ops generalizing s with
  | nil => rfl
  | cons op ops ih =>
    obtain ⟨hop, hops⟩ := List.forall_mem_cons.1 h
    simp only [runOps, hop s rest]
    split
    · exact ih hops (op s)
    · rfl

theorem ignoresPending_runOps_ubuild_user (dir : Dir) (seq : Byte) (cmd : Half) (pay : ByteString) :
    IgnoresPending (runOps [ubuild dir seq cmd pay, user]) :=
  ignoresPending_runOps (by simpa using ⟨ignoresPending_ubuild dir seq cmd pay, ignoresPending_user⟩)

theorem ignoresPending_readChunk (bytes : ByteString) : IgnoresPending (readChunk bytes) := by
  intro s rest
  cases h : completesFrame bytes with
  | false => simp only [readChunk_of_incomplete _ h]
  | true =>
    simp only [readChunk_of_complete _ h]
    exact ignoresPending_runOps (by
      simpa using ⟨ignoresPending_uparse bytes, ignoresPending_upcmd, ignoresPending_user, ignoresPending_uchunk⟩)
      s rest

theorem ignoresPending_after (i : Instr) : IgnoresPending (after i) := by
  cases i with
  | ubuild | user | uchunk | uparse | upcmd => exact ignoresPending_usb rfl
  | sbuild | sparse => exact ignoresPending_serial rfl
  | setaddr | clr | unassigned9 | unassignedA | unassignedB | unassignedC | unassignedD | unassignedE
  | unassignedF => exact fun _ _ => rfl
  | cmdWr seq cmd pay => exact ignoresPending_runOps_ubuild_user .write seq cmd pay
  | cmdRd seq cmd pay => exact ignoresPending_runOps_ubuild_user .read seq cmd pay
  | replyOk flag seq data trailing | replyErr flag seq data trailing =>
    exact ignoresPending_uparse (replyBytes flag seq data trailing)
  | chunk bytes => exact ignoresPending_readChunk bytes
  | serial addr fc d0 d1 d2 ck => exact ignoresPending_sparse fc (serialFrameBytes addr fc d0 d1 d2 ck)

theorem ignoresPending_rejectEntry (e : Entry) : IgnoresPending (rejectEntry e) := by
  obtain ⟨format, bytes⟩ := e
  cases format with
  | op | usbCommand | usbWireChunk => exact fun _ _ => rfl
  | usbReply => exact ignoresPending_uparse bytes
  | serialFrame => exact ignoresPending_sparse 0 bytes

/-! ## A step -/

/-- The state an accepted entry leaves. -/
def served (e : Entry) : State → State :=
  match decode e with
  | .ok i => after i
  | .error _ => rejectEntry e

theorem served_of_ok {e : Entry} {i : Instr} (h : decode e = .ok i) : served e = after i := by
  simp only [served, h]

theorem served_of_error {e : Entry} {q : DecodeError} (h : decode e = .error q) : served e = rejectEntry e := by
  simp only [served, h]

theorem serveEntry_eq_next (e : Entry) (s : State) : serveEntry e s = .next (served e s) := by
  cases h : decode e with
  | ok i => rw [serveEntry_of_ok h, exec_eq_next, served_of_ok h]
  | error q => rw [serveEntry_of_error h, served_of_error h]

theorem ignoresPending_served (e : Entry) : IgnoresPending (served e) := by
  cases h : decode e with
  | ok i => rw [served_of_ok h]; exact ignoresPending_after i
  | error q => rw [served_of_error h]; exact ignoresPending_rejectEntry e

/-- A step serves the oldest pending entry, on the state less that entry. -/
theorem step_eq_next {s : State} {e : Entry} {rest : List Entry} (h : s.pending = e :: rest) :
    step s = .next (served e { s with pending := rest }) :=
  (step_of_pending h).trans (serveEntry_eq_next e _)

theorem pending_served (e : Entry) (s : State) (rest : List Entry) :
    (served e { s with pending := rest }).pending = rest :=
  (ignoresPending_served e).pending _

/-- Only a state with a pending entry takes a step. -/
theorem step_next_cases {s t : State} (h : step s = .next t) :
    ∃ e rest, s.pending = e :: rest ∧ t = served e { s with pending := rest } := by
  cases hp : s.pending with
  | nil => rw [step_of_idle hp] at h; cases h
  | cons e rest =>
    rw [step_eq_next hp] at h
    cases h
    exact ⟨e, rest, rfl, rfl⟩

/-- Settles O46: serving the oldest entry leaves the rest of the list. -/
theorem stepTakesOneRequest : Obligations.StepTakesOneRequest :=
  ⟨fun s e rest h => ⟨_, step_eq_next h, pending_served e s rest⟩, fun _ => step_of_idle⟩

/-- Settles O48: the decoder's answer selects the arm of `serveEntry`. -/
theorem stepRunsDecodedInstruction : Obligations.StepRunsDecodedInstruction := fun _ _ _ _ h hi =>
  (step_of_pending h).trans (serveEntry_of_ok hi _)

/-! ## The ten items (R20) -/

theorem Value.frame_injective : Function.Injective Value.frame := fun _ _ h => Value.frame.inj h
theorem Value.serialized_injective : Function.Injective Value.serialized := fun _ _ h => Value.serialized.inj h
theorem Value.chunks_injective : Function.Injective Value.chunks := fun _ _ h => Value.chunks.inj h
theorem Value.reply_injective : Function.Injective Value.reply := fun _ _ h => Value.reply.inj h
theorem Value.serialSent_injective : Function.Injective Value.serialSent := fun _ _ h => Value.serialSent.inj h
theorem Value.serialReceived_injective : Function.Injective Value.serialReceived := fun _ _ h =>
  Value.serialReceived.inj h

/-- Two states that agree on the ten items differ in the pending requests at most. -/
theorem eq_withPending_of_items {s s' : State} (hsaddr : s.saddr = s'.saddr) (hstatus : s.status = s'.status)
    (hgroups : ∀ g, s.groupValue g = s'.groupValue g) : ∃ rest, s' = { s with pending := rest } := by
  have hf : s.f = s'.f := Option.map_injective Value.frame_injective (hgroups .F)
  have hsb : s.sb = s'.sb := Option.map_injective Value.serialized_injective (hgroups .SB)
  have hcq : s.cq = s'.cq := Option.map_injective Value.chunks_injective (hgroups .CQ)
  have hr : s.r = s'.r := Option.map_injective Value.reply_injective (hgroups .R)
  have hstx : s.stx = s'.stx := Option.map_injective Value.serialSent_injective (hgroups .STX)
  have hsrx : s.srx = s'.srx := Option.map_injective Value.serialReceived_injective (hgroups .SRX)
  exact ⟨s'.pending, by rw [hsaddr, hstatus, hf, hsb, hcq, hr, hstx, hsrx]⟩

theorem groupValue_withPending (s : State) (rest : List Entry) (g : Group) :
    ({ s with pending := rest } : State).groupValue g = s.groupValue g := by
  cases g <;> rfl

theorem valid_withPending (s : State) (rest : List Entry) (g : Group) :
    ({ s with pending := rest } : State).valid g = s.valid g := by
  cases g <;> rfl

/-- Settles O59: the two states differ in the pending requests at most, which no instruction reads. -/
theorem tenItemsAreTheWholeState : Obligations.TenItemsAreTheWholeState := by
  intro s s' hsaddr hstatus hgroups
  obtain ⟨rest, rfl⟩ := eq_withPending_of_items hsaddr hstatus fun g => (hgroups g).2
  refine ⟨fun i t ht => ⟨_, exec_eq_next i _, ?_⟩, fun hpending => ?_⟩
  · obtain rfl := exec_next_iff.1 ht
    rw [ignoresPending_after i s rest]
    exact ⟨rfl, rfl, rfl, fun g => ⟨(valid_withPending ..).symm, (groupValue_withPending ..).symm⟩⟩
  · cases hpending
    rfl

end Sys2Proof.Machine

/-! ## The invariant along a run -/

namespace Sys2Proof.Safety.Inv

open Machine

theorem served {s : State} (h : Inv s) (e : Entry) : Inv (served e s) := by
  cases hd : decode e with
  | ok i => rw [served_of_ok hd]; exact h.after i
  | error q => rw [served_of_error hd]; exact h.rejectEntry e

end Sys2Proof.Safety.Inv

namespace Sys2Proof.Machine

open Safety

/-- Settles O43: what a step leaves is what serving the entry leaves, and both an instruction and the front end's answer
keep the invariant. -/
theorem stepKeepsInvariant : Obligations.StepKeepsInvariant := by
  intro s t hs ht
  obtain ⟨e, rest, -, rfl⟩ := step_next_cases ht
  exact (hs.withPending rest).served e

theorem run_succ_of_step {s t : State} (h : step s = .next t) (k : Nat) :
    Host.Core.run core (k + 1) s = Host.Core.run core k t := by
  have hcore : core.step s = .next t := h
  simp only [Host.Core.run, hcore]

theorem run_serves_pending {s : State} (hs : Inv s) :
    ∃ t, Host.Core.run core s.pending.length s = .next t ∧ t.pending = [] ∧ Inv t := by
  induction hp : s.pending generalizing s with
  | nil => exact ⟨s, rfl, hp, hs⟩
  | cons e rest ih =>
    rw [List.length_cons, run_succ_of_step (step_eq_next hp)]
    exact ih ((hs.withPending rest).served e) (pending_served e s rest)

/-- Settles O47: each step serves one entry, and with none left there is no step. -/
theorem runServesEveryRequest : Obligations.RunServesEveryRequest := by
  intro s hs
  obtain ⟨t, hrun, hpending, ht⟩ := run_serves_pending hs
  exact ⟨t, hrun, hpending, ht, step_of_idle hpending⟩

end Sys2Proof.Machine
end

section
/-! Several instances (R234, log 12): a step or a reset of one leaves the others and does not depend on them. -/

namespace Sys2Proof.Machine

theorem stepInstance_of_step {k : Nat} {sys : System} {s t : State} (hk : sys[k]? = some s)
    (hstep : step s = .next t) : stepInstance k sys = .next (sys.set k t) := by
  simp only [stepInstance, hk, hstep]

/-- A system step is the step of the state at position `k`. -/
theorem stepInstance_next_iff {k : Nat} {sys next : System} :
    stepInstance k sys = .next next ↔
      ∃ s t, sys[k]? = some s ∧ step s = .next t ∧ next = sys.set k t := by
  constructor
  · intro h
    unfold stepInstance at h
    split at h
    · cases h
    · rename_i s hk
      split at h
      · rename_i t hstep
        cases h
        exact ⟨s, t, hk, hstep, rfl⟩
      · cases h
      · cases h
  · rintro ⟨s, t, hk, hstep, rfl⟩
    exact stepInstance_of_step hk hstep

/-- Settles O49: a system step writes position `k` alone, with what the state there determines. -/
theorem instancesShareNoState : Obligations.InstancesShareNoState := by
  intro k sys sys' next s hk hk' hnext
  obtain ⟨s', t, hs', hstep, rfl⟩ := stepInstance_next_iff.1 hnext
  cases hk.symm.trans hs'
  have hlt : k < sys.length := (List.getElem?_eq_some_iff.1 hk).1
  exact ⟨List.length_set, fun j hj => List.getElem?_set_ne hj.symm,
    t, hstep, List.getElem?_set_self hlt, stepInstance_of_step hk' hstep⟩

/-- Settles O58: a reset writes position `k` of the list alone, and writes at different positions of a list commute. -/
theorem instancesAreResetOnTheirOwn : Obligations.InstancesAreResetOnTheirOwn := by
  refine ⟨fun addrs k => List.getElem?_map, fun k addr sys hk =>
    ⟨List.length_set, List.getElem?_set_self hk, fun j hj => List.getElem?_set_ne hj.symm,
      fun j next hj hnext => ?_⟩⟩
  obtain ⟨s, t, hs, hstep, rfl⟩ := stepInstance_next_iff.1 hnext
  have hj' : (resetInstance k addr sys)[j]? = some s := (List.getElem?_set_ne hj.symm).trans hs
  rw [stepInstance_of_step hj' hstep]
  exact congrArg Host.Outcome.next (List.set_comm _ _ hj.symm)

end Sys2Proof.Machine
end

section
/-! What instructions write (R20, R22, R36): each leaves every group but those it writes, with all bytes of their
buffers, and the bytes an operation stores read back. -/

namespace Sys2Proof.Machine

open Safety

/-! ## Which groups an effect may write -/

/-- Between two states SADDR and every group outside `gs` are unchanged. -/
structure WritesOnly (gs : List Group) (s t : State) : Prop where
  saddr : t.saddr = s.saddr
  groups : ∀ g, g ∉ gs → t.groupValue g = s.groupValue g

theorem WritesOnly.trans {gs : List Group} {s t u : State} (h : WritesOnly gs s t) (h' : WritesOnly gs t u) :
    WritesOnly gs s u :=
  ⟨h'.saddr.trans h.saddr, fun g hg => (h'.groups g hg).trans (h.groups g hg)⟩

theorem WritesOnly.mono {gs gs' : List Group} {s t : State} (h : WritesOnly gs s t) (hsub : gs ⊆ gs') :
    WritesOnly gs' s t :=
  ⟨h.saddr, fun g hg => h.groups g fun hmem => hg (hsub hmem)⟩

section

variable (s : State) (st : Status)

theorem writesOnly_status (gs : List Group) : WritesOnly gs s { s with status := st } :=
  ⟨rfl, fun g _ => by cases g <;> rfl⟩

theorem writesOnly_F_SB_CQ (f : Option CommandFrame) (sb : Option SerializedBytes) (cq : Option ChunkQueue) :
    WritesOnly [.F, .SB, .CQ] s { s with f := f, sb := sb, cq := cq, status := st } :=
  ⟨rfl, fun g hg => by cases g <;> simp_all [State.groupValue]⟩

theorem writesOnly_SB_CQ (sb : Option SerializedBytes) (cq : Option ChunkQueue) :
    WritesOnly [.SB, .CQ] s { s with sb := sb, cq := cq, status := st } :=
  ⟨rfl, fun g hg => by cases g <;> simp_all [State.groupValue]⟩

theorem writesOnly_CQ (cq : Option ChunkQueue) : WritesOnly [.CQ] s { s with cq := cq, status := st } :=
  ⟨rfl, fun g hg => by cases g <;> simp_all [State.groupValue]⟩

theorem writesOnly_R (r : Option ReplyFrame) : WritesOnly [.R] s { s with r := r, status := st } :=
  ⟨rfl, fun g hg => by cases g <;> simp_all [State.groupValue]⟩

theorem writesOnly_STX (x : Option SerialTransmit) : WritesOnly [.STX] s { s with stx := x, status := st } :=
  ⟨rfl, fun g hg => by cases g <;> simp_all [State.groupValue]⟩

theorem writesOnly_SRX (x : Option SerialReceive) : WritesOnly [.SRX] s { s with srx := x, status := st } :=
  ⟨rfl, fun g hg => by cases g <;> simp_all [State.groupValue]⟩

end

section

variable (s : State)

theorem writesOnly_ubuild (dir : Dir) (seq : Byte) (cmd : Half) (pay : ByteString) :
    WritesOnly [.F, .SB, .CQ] s (ubuild dir seq cmd pay s) := by
  obtain ⟨f, st, h⟩ := exists_ubuild_eq dir seq cmd pay
  rw [h s]
  exact writesOnly_F_SB_CQ ..

theorem writesOnly_user : WritesOnly [.SB, .CQ] s (user s) := by
  cases hf : s.f with
  | none => rw [user_of_none s hf]; exact writesOnly_status ..
  | some f => rw [user_of_some s hf]; exact writesOnly_SB_CQ ..

theorem writesOnly_uchunk : WritesOnly [.CQ] s (uchunk s) := by
  cases hsb : s.sb with
  | none => rw [uchunk_of_none s hsb]; exact writesOnly_status ..
  | some sb => rw [uchunk_of_some s hsb]; exact writesOnly_CQ ..

theorem writesOnly_uparse (rx : ByteString) : WritesOnly [.R] s (uparse rx s) := by
  obtain ⟨r, st, h⟩ := exists_uparse_eq rx
  rw [h s]
  exact writesOnly_R ..

theorem writesOnly_upcmd : WritesOnly [.F, .SB, .CQ] s (upcmd s) := by
  cases hr : s.r with
  | none => rw [upcmd_of_none s hr]; exact writesOnly_status ..
  | some r =>
    obtain ⟨f, st, h⟩ := exists_upcmd_eq r
    rw [h s hr]
    exact writesOnly_F_SB_CQ ..

theorem writesOnly_sparse (efc : Byte) (rx : ByteString) : WritesOnly [.SRX] s (sparse efc rx s) := by
  obtain ⟨x, st, h⟩ := exists_sparse_eq s.saddr efc rx
  rw [h s rfl]
  exact writesOnly_SRX ..

theorem writesOnly_clr : WritesOnly [.F, .SB, .CQ, .R, .STX, .SRX] s (clr s) :=
  ⟨rfl, fun g hg => by cases g <;> simp at hg⟩

/-- A sequence writes no group that none of its operations writes. -/
theorem writesOnly_runOps {gs : List Group} {ops : List (State → State)}
    (h : ∀ op ∈ ops, ∀ t, WritesOnly gs t (op t)) : WritesOnly gs s (runOps ops s) :=
  runOps_keeps (P := WritesOnly gs s) s (fun op hop t ht => ht.trans (h op hop t)) ⟨rfl, fun _ _ => rfl⟩

theorem writesOnly_runOps_ubuild_user (dir : Dir) (seq : Byte) (cmd : Half) (pay : ByteString) :
    WritesOnly [.F, .SB, .CQ] s (runOps [ubuild dir seq cmd pay, user] s) :=
  writesOnly_runOps s (by
    simpa using ⟨fun t => writesOnly_ubuild t dir seq cmd pay, fun t => (writesOnly_user t).mono (by decide)⟩)

theorem writesOnly_readChunk (bytes : ByteString) : WritesOnly [.R, .F, .SB, .CQ] s (readChunk bytes s) := by
  cases hc : completesFrame bytes with
  | false => rw [readChunk_of_incomplete s hc]; exact writesOnly_status ..
  | true =>
    rw [readChunk_of_complete s hc]
    exact writesOnly_runOps s (by
      simpa using ⟨fun t => (writesOnly_uparse t bytes).mono (by decide),
        fun t => (writesOnly_upcmd t).mono (by decide), fun t => (writesOnly_user t).mono (by decide),
        fun t => (writesOnly_uchunk t).mono (by decide)⟩)

/-- Every instruction but SETADDR, which writes no group, keeps SADDR and writes its groups only. -/
theorem writesOnly_after {i : Instr} (hi : ∀ a, i ≠ .setaddr a) : WritesOnly (writes i) s (after i s) := by
  cases i with
  | ubuild dir seq cmd pay => exact writesOnly_ubuild s dir seq cmd pay
  | user => exact writesOnly_user s
  | uchunk => exact writesOnly_uchunk s
  | uparse rx => exact writesOnly_uparse s rx
  | upcmd => exact writesOnly_upcmd s
  | sbuild fc d0 d1 d2 => exact writesOnly_STX ..
  | sparse efc rx => exact writesOnly_sparse s efc rx
  | setaddr a => exact absurd rfl (hi a)
  | clr => exact writesOnly_clr s
  | unassigned9 | unassignedA | unassignedB | unassignedC | unassignedD | unassignedE | unassignedF =>
    exact writesOnly_status ..
  | cmdWr seq cmd pay => exact writesOnly_runOps_ubuild_user s .write seq cmd pay
  | cmdRd seq cmd pay => exact writesOnly_runOps_ubuild_user s .read seq cmd pay
  | replyOk flag seq data trailing | replyErr flag seq data trailing =>
    exact writesOnly_uparse s (replyBytes flag seq data trailing)
  | chunk bytes => exact writesOnly_readChunk s bytes
  | serial addr fc d0 d1 d2 ck => exact writesOnly_sparse s fc (serialFrameBytes addr fc d0 d1 d2 ck)

theorem groupValue_after {i : Instr} {g : Group} (hg : g ∉ writes i) :
    (after i s).groupValue g = s.groupValue g := by
  by_cases hi : ∃ a, i = .setaddr a
  · obtain ⟨a, rfl⟩ := hi
    cases g <;> rfl
  · exact (writesOnly_after s fun a ha => hi ⟨a, ha⟩).groups g hg

end

/-- A buffer belongs to its group: it holds the same bytes in states that hold the same group (R36). -/
theorem buffer_eq_of_groupValue_eq {s t : State} {sp : Space}
    (h : t.groupValue (spaceGroup sp) = s.groupValue (spaceGroup sp)) : t.buffer sp = s.buffer sp := by
  cases sp with
  | fPay => exact congrArg (Option.map _) (Option.map_injective Value.frame_injective h)
  | sbB => exact congrArg (Option.map _) (Option.map_injective Value.serialized_injective h)
  | cqC k => exact congrArg (Option.bind · _) (Option.map_injective Value.chunks_injective h)
  | rData => exact congrArg (Option.map _) (Option.map_injective Value.reply_injective h)
  | stxB => exact congrArg (Option.map _) (Option.map_injective Value.serialSent_injective h)

/-- Settles O39: valid bits and buffers are functions of the group values, which the instruction keeps outside the
groups it writes. -/
theorem instructionsWriteOnlyTheirGroups : Obligations.InstructionsWriteOnlyTheirGroups := by
  intro i s t ht
  obtain rfl := exec_next_iff.1 ht
  refine ⟨fun g hg => ⟨?_, groupValue_after s hg⟩, fun sp hsp a => ?_, fun hi => (writesOnly_after s hi).saddr,
    (ignoresPending_after i).pending s⟩
  · rw [valid_eq_isSome_groupValue, valid_eq_isSome_groupValue, groupValue_after s hg]
  · rw [State.readByte, State.readByte, buffer_eq_of_groupValue_eq (groupValue_after s hsp)]

/-! ## Where the bytes go (R36, R120 to R122, R140, R141, R160) -/

section

variable {s : State} (a : Nat)

theorem readByte_ubuild_of_ok {dir : Dir} {seq : Byte} {cmd : Half} {pay : ByteString}
    (h : (ubuild dir seq cmd pay s).status = .ok) : (ubuild dir seq cmd pay s).readByte .fPay a = pay[a]? := by
  rcases Nat.lt_or_ge 512 (pay.length + 6) with hlen | hlen
  · simp [ubuild_of_tooLong s hlen] at h
  · rw [ubuild_of_fits s hlen, readByte_fPay a rfl]

theorem readByte_user {f : CommandFrame} (h : s.f = some f) :
    (user s).readByte .sbB a = (serializeFrame f).b[a]? := by
  rw [user_of_some s h, readByte_sbB a rfl]

/-- Byte `a` of chunk `k` after UCHUNK (R86): a serialized byte, padding, or none. -/
theorem readByte_uchunk {sb : SerializedBytes} (h : s.sb = some sb) (hlen : sb.b.length = sb.t) (k : Nat) :
    (uchunk s).readByte (.cqC k) a =
      if a < 64 ∧ k < (sb.t + 63) / 64 then
        (if 64 * k + a < sb.t then s.readByte .sbB (64 * k + a) else some 0) else none := by
  rw [uchunk_of_some s h, readByte_cqC a rfl, readByte_sbB _ h]
  rcases Nat.lt_or_ge k (cutChunks sb).k with hk | hk
  · rw [getElem?_cutChunks_c hk, Option.bind_some]
    rcases Nat.lt_or_ge a 64 with ha | ha
    · rw [getElem?_wireChunk_of_length hlen k ha, if_pos (show a < 64 ∧ k < (sb.t + 63) / 64 from ⟨ha, hk⟩)]
    · rw [List.getElem?_eq_none (by simpa using ha), if_neg fun hin => absurd hin.1 (Nat.not_lt.2 ha)]
  · rw [List.getElem?_eq_none (by simpa using hk), if_neg fun hin => absurd hin.2 (Nat.not_lt.2 hk)]
    rfl

theorem readByte_uparse_of_ok {rx : ByteString} {r : ReplyFrame} (hok : (uparse rx s).status = .ok)
    (hr : (uparse rx s).r = some r) :
    (uparse rx s).readByte .rData a = if a < r.len.toNat then rx[4 + a]? else none := by
  obtain ⟨flag, seq, l0, l1, rest, rfl, -, hp⟩ := uparse_whole_of_ok hok
  rw [readByte_rData a hr]
  cases (congrArg State.r hp).symm.trans hr
  rw [toNat_fromLe16, List.getElem?_take, Nat.add_comm 4 a]
  rfl

theorem readByte_upcmd_of_ok {r : ReplyFrame} (hr : s.r = some r) (hrok : ReplyOk r)
    (hok : (upcmd s).status = .ok) : (upcmd s).readByte .fPay a = s.readByte .rData (a + 2) := by
  obtain ⟨r', hr', h2, -, hc⟩ := upcmd_fits_of_ok hok
  cases hr.symm.trans hr'
  obtain ⟨-, -, -, -, hpay⟩ := commandView_fields hrok h2
  rw [hc, readByte_fPay a rfl, readByte_rData _ hr, hpay, List.getElem?_drop, Nat.add_comm 2 a]

end

/-- Settles O40: the bytes of each storing operation, read from the space it stores to. -/
theorem storedBytesReadBack : Obligations.StoredBytesReadBack := by
  refine ⟨fun dir seq cmd pay s t ht hok a => ?_, fun s t f hf hfok ht => ?_, fun s t sb hsb hlen ht k a => ?_,
    fun rx s t r ht hok hr a => ?_, fun s t r hr hrok ht hok a => ?_, fun fc d0 d1 d2 s t ht => ?_⟩
  all_goals obtain rfl := exec_next_iff.1 ht
  · exact readByte_ubuild_of_ok a hok
  · have hser := serializedOf_serializeFrame hfok
    obtain ⟨l0, l1, hl0, hl1, hlen⟩ := hser.len
    obtain ⟨c0, c1, hc0, hc1, hcmd⟩ := hser.cmd
    have hread (a : Nat) := readByte_user a hf
    exact ⟨(hread 0).trans hser.flag, (hread 1).trans hser.seq,
      ⟨l0, l1, c0, c1, (hread 2).trans hl0, (hread 3).trans hl1, hlen,
        (hread 4).trans hc0, (hread 5).trans hc1, hcmd⟩,
      fun a ha => by rw [readByte_fPay _ hf]; exact (hread a).trans (getElem?_serializeFrame_b hfok ha)⟩
  · exact readByte_uchunk a hsb hlen k
  · exact readByte_uparse_of_ok a hok hr
  · exact readByte_upcmd_of_ok a hr hrok hok
  · exact ⟨_, checksumOk_serialChecksum fc d0 d1 d2, fun a => readByte_stxB a rfl⟩

end Sys2Proof.Machine
end

section
/-! The decoder and the encoder (30_encoding.md): each undoes the other (R96 to R106 and the wire layouts), the first
byte of a request is its operation's number (R98), and what is done with an entry that does not decode (R182, log 10).
-/

namespace Sys2Proof

open Machine Safety

/-! ## From an instruction to its entry and back -/

theorem decode_encode_ubuild (dir : Dir) (seq : Byte) (cmd : Half) (pay : ByteString) :
    decode (encode (.ubuild dir seq cmd pay)) = .ok (.ubuild dir seq cmd pay) := by
  change decodeUbuild (dirByte dir :: seq :: (le16 cmd.toNat ++ pay)) = _
  simp [decodeUbuild, le16]

theorem decode_encode_replyOk {flag : Byte} {data : ByteString} (seq : Byte) (trailing : ByteString)
    (h : (Instr.replyOk flag seq data trailing).WellFormed) :
    decode (encode (.replyOk flag seq data trailing)) = .ok (.replyOk flag seq data trailing) := by
  obtain ⟨hflag, hlen⟩ := Bool.and_eq_true_iff.1 h
  refine (decodeReply_replyBytes (of_decide_eq_true hlen) flag seq trailing).trans ?_
  rw [if_neg (by simpa using hflag)]

theorem decode_encode_replyErr {flag : Byte} {data : ByteString} (seq : Byte) (trailing : ByteString)
    (h : (Instr.replyErr flag seq data trailing).WellFormed) :
    decode (encode (.replyErr flag seq data trailing)) = .ok (.replyErr flag seq data trailing) := by
  obtain ⟨hflag, hlen⟩ := Bool.and_eq_true_iff.1 h
  refine (decodeReply_replyBytes (of_decide_eq_true hlen) flag seq trailing).trans ?_
  rw [if_pos hflag]

/-- Settles O50, row by row: the length and flag checks of a well-formed instruction are those of the decoder. -/
theorem decodeOfEncode : Obligations.DecodeOfEncode := by
  intro i h
  cases i with
  | ubuild dir seq cmd pay => exact decode_encode_ubuild dir seq cmd pay
  | user | uchunk | uparse | upcmd | sbuild | sparse | setaddr | clr | unassigned9 | unassignedA | unassignedB
  | unassignedC | unassignedD | unassignedE | unassignedF => rfl
  | cmdWr seq cmd pay => exact decodeCommand_commandBytes h .write seq cmd
  | cmdRd seq cmd pay => exact decodeCommand_commandBytes h .read seq cmd
  | replyOk flag seq data trailing => exact decode_encode_replyOk seq trailing h
  | replyErr flag seq data trailing => exact decode_encode_replyErr seq trailing h
  | chunk bytes => exact if_pos h
  | serial addr fc d0 d1 d2 ck => rfl

/-! ## From an entry to its instruction and back -/

theorem decodeRequest_ok {bytes : ByteString} {i : Instr} (h : decodeRequest bytes = .ok i) :
    i.WellFormed ∧ encode i = ⟨.op, bytes⟩ := by
  match bytes, h with
  | op :: operands, h =>
    obtain ⟨-, hwf, henc, -⟩ := decodeOp_ok h
    exact ⟨hwf, henc⟩

/-- The bytes a serialized frame's fields were read from (R80). -/
theorem commandBytes_of_fields {flag l0 l1 : Byte} {pay : ByteString} {d : Dir} (seq c0 c1 : Byte)
    (hlen : (fromLe16 l0 l1).toNat = pay.length + 2) (hd : serializedDirection flag = some d) :
    commandBytes d seq (fromLe16 c0 c1) pay = flag :: seq :: l0 :: l1 :: c0 :: c1 :: pay := by
  rw [commandBytes, ← hlen, le16_toNat_fromLe16, le16_toNat_fromLe16, commandFlag_of_serializedDirection hd]
  rfl

theorem decodeCommand_ok {bytes : ByteString} {i : Instr} (h : decodeCommand bytes = .ok i) :
    i.WellFormed ∧ encode i = ⟨.usbCommand, bytes⟩ := by
  match bytes, h with
  | flag :: seq :: l0 :: l1 :: c0 :: c1 :: pay, h =>
    rw [decodeCommand] at h
    split at h
    · rename_i hfits
      split at h
      · rename_i hlen
        split at h
        · rename_i hd
          cases h
          exact ⟨hfits, congrArg (Entry.mk _) (commandBytes_of_fields seq c0 c1 hlen hd)⟩
        · rename_i hd
          cases h
          exact ⟨hfits, congrArg (Entry.mk _) (commandBytes_of_fields seq c0 c1 hlen hd)⟩
        · cases h
      · cases h
    · cases h

/-- The bytes a reply's fields were read from (R88). -/
theorem replyBytes_of_fields {l0 l1 : Byte} {rest : ByteString} (flag seq : Byte)
    (h : (fromLe16 l0 l1).toNat ≤ rest.length) :
    replyBytes flag seq (rest.take (fromLe16 l0 l1).toNat) (rest.drop (fromLe16 l0 l1).toNat) =
      flag :: seq :: l0 :: l1 :: rest := by
  rw [replyBytes, List.length_take, Nat.min_eq_left h, le16_toNat_fromLe16, List.append_assoc, List.take_append_drop]
  rfl

/-- A whole reply decodes to the row of its flag bit 5. -/
theorem decodeReply_of_whole {l0 l1 : Byte} {rest : ByteString} (flag seq : Byte)
    (h : (fromLe16 l0 l1).toNat ≤ rest.length) :
    decodeReply (flag :: seq :: l0 :: l1 :: rest) =
      if errorFlag flag then
        .ok (.replyErr flag seq (rest.take (fromLe16 l0 l1).toNat) (rest.drop (fromLe16 l0 l1).toNat))
      else .ok (.replyOk flag seq (rest.take (fromLe16 l0 l1).toNat) (rest.drop (fromLe16 l0 l1).toNat)) := by
  rw [← replyBytes_of_fields flag seq h]
  refine decodeReply_replyBytes ?_ flag seq _
  rw [List.length_take, Nat.min_eq_left h]
  exact (fromLe16 l0 l1).isLt

theorem decodeReply_of_truncated {l0 l1 : Byte} {rest : ByteString} (flag seq : Byte)
    (h : rest.length < (fromLe16 l0 l1).toNat) :
    decodeReply (flag :: seq :: l0 :: l1 :: rest) = .error .truncatedFrame := by
  simp only [decodeReply, if_pos h]

theorem decodeReply_ok {bytes : ByteString} {i : Instr} (h : decodeReply bytes = .ok i) :
    i.WellFormed ∧ encode i = ⟨.usbReply, bytes⟩ := by
  match bytes, h with
  | flag :: seq :: l0 :: l1 :: rest, h =>
    rcases Nat.lt_or_ge rest.length (fromLe16 l0 l1).toNat with hlen | hlen
    · rw [decodeReply_of_truncated flag seq hlen] at h
      cases h
    · have hfits : lengthFieldFits (rest.take (fromLe16 l0 l1).toNat) = true := by
        refine decide_eq_true ?_
        rw [List.length_take, Nat.min_eq_left hlen]
        exact (fromLe16 l0 l1).isLt
      rw [decodeReply_of_whole flag seq hlen] at h
      split at h
      · rename_i hflag
        cases h
        exact ⟨Bool.and_eq_true_iff.2 ⟨hflag, hfits⟩,
          congrArg (Entry.mk _) (replyBytes_of_fields flag seq hlen)⟩
      · rename_i hflag
        cases h
        exact ⟨Bool.and_eq_true_iff.2 ⟨by simpa using hflag, hfits⟩,
          congrArg (Entry.mk _) (replyBytes_of_fields flag seq hlen)⟩

theorem decodeChunk_ok {bytes : ByteString} {i : Instr} (h : decodeChunk bytes = .ok i) :
    i.WellFormed ∧ encode i = ⟨.usbWireChunk, bytes⟩ := by
  unfold decodeChunk at h
  split at h
  · rename_i hfits
    cases h
    exact ⟨hfits, rfl⟩
  · cases h

theorem decodeSerial_ok {bytes : ByteString} {i : Instr} (h : decodeSerial bytes = .ok i) :
    i.WellFormed ∧ encode i = ⟨.serialFrame, bytes⟩ := by
  unfold decodeSerial at h
  split at h
  · split at h
    · rename_i hconst
      obtain ⟨rfl, rfl, rfl, rfl⟩ := hconst
      cases h
      exact ⟨rfl, rfl⟩
    · cases h
  · cases h

/-- Settles O51, format by format. -/
theorem encodeOfDecode : Obligations.EncodeOfDecode := by
  rintro ⟨format, bytes⟩ i h
  cases format with
  | op => exact decodeRequest_ok h
  | usbCommand => exact decodeCommand_ok h
  | usbReply => exact decodeReply_ok h
  | usbWireChunk => exact decodeChunk_ok h
  | serialFrame => exact decodeSerial_ok h

/-- Settles O52: the decoder evaluates on each of the six words. -/
theorem writtenWordsDecode : Obligations.WrittenWordsDecode := ⟨rfl, rfl, rfl, rfl, rfl, rfl⟩

/-! ## The number of an operation (R98, R106) -/

theorem decodeOp_of_ge {op : Nat} (h : 16 ≤ op) (operands : ByteString) :
    decodeOp op operands = .error .opNotFourBits := by
  obtain ⟨n, rfl⟩ := Nat.exists_eq_add_of_le' h
  rfl

/-- Settles O53: a request that decodes is the encoding of an operation, whose first byte is its number. -/
theorem operationNumbersSelect : Obligations.OperationNumbersSelect := by
  refine ⟨fun op operands i h => ?_, fun op operands h => decodeOp_of_ge h operands⟩
  obtain ⟨-, -, henc, hi⟩ := decodeOp_ok h
  have hop : (encode i).bytes[0]? = some op := by rw [henc]; rfl
  cases i with
  | cmdWr | cmdRd | replyOk | replyErr | chunk | serial => cases hi
  | ubuild | user | uchunk | uparse | upcmd | sbuild | sparse | setaddr | clr | unassigned9 | unassignedA
  | unassignedB | unassignedC | unassignedD | unassignedE | unassignedF =>
    cases hop
    simp [unassigned]

/-! ## Entries that do not decode (R182, log 10) -/

/-- A step hands an entry that does not decode to the front end. -/
theorem step_of_malformed {e : Entry} (h : ∀ i, decode e ≠ .ok i) (rest : List Entry) (s : State) :
    step { s with pending := e :: rest } = .next (rejectEntry e { s with pending := rest }) := by
  cases hd : decode e with
  | ok i => exact absurd hd (h i)
  | error q => exact (step_of_pending rfl).trans (serveEntry_of_error hd _)

/-- Settles O11: the front end's answer to a malformed request is BadRequest. -/
theorem malformedRequestsAreBadRequest : Obligations.MalformedRequestsAreBadRequest := fun _ rest s h =>
  step_of_malformed h rest s

/-- A string that is no reply is short or truncated, so UPARSE names its failure (R140). -/
theorem uparse_of_malformed {bytes : ByteString} (h : ∀ i, decodeReply bytes ≠ .ok i) (s : State) :
    uparse bytes s =
      { s with r := none, status := if bytes.length < 4 then .shortReply else .truncatedPayload } := by
  rcases uparse_cases s bytes with ⟨hlen, hp⟩ | ⟨flag, seq, l0, l1, rest, rfl, ⟨-, hp⟩ | ⟨hwhole, -⟩⟩
  · rw [hp, if_pos hlen]
  · rw [hp, if_neg (by simp)]
  · have hd := decodeReply_of_whole flag seq ((toNat_fromLe16 l0 l1).trans_le hwhole)
    split at hd <;> exact absurd hd (h _)

/-- A string that is no serial frame fails a test of SPARSE that does not depend on the function code (R161). -/
theorem sparse_of_malformed {bytes : ByteString} (h : ∀ i, decodeSerial bytes ≠ .ok i) (efc : Byte) (s : State) :
    sparse efc bytes s = { s with srx := none, status := .invalidResponse } := by
  refine sparse_of_no_frame fun d0 d1 d2 ck hbytes => absurd ?_ (h (.serial s.saddr efc d0 d1 d2 ck))
  rw [hbytes]
  rfl

/-- Settles O54, format by format. -/
theorem malformedWireEntriesAreAnswered : Obligations.MalformedWireEntriesAreAnswered := by
  intro bytes rest s
  refine ⟨fun h => step_of_malformed h rest s, fun h => step_of_malformed h rest s, fun h => ?_, fun h => ?_⟩
  · rw [step_of_malformed h]
    exact congrArg Host.Outcome.next (uparse_of_malformed h _)
  · rw [step_of_malformed h]
    exact congrArg Host.Outcome.next (sparse_of_malformed h 0 _)

end Sys2Proof
end

section
/-! The wire-format rows (log 6 to 8): what each of them leaves, as a sequence of operations, and that the chunks of a
frame, read in index order, give the frame and the same chunks back (R108). -/

namespace Sys2Proof.Machine

open Safety

/-! ## Command, reply and serial rows (log 6, log 8) -/

/-- Settles O12: UBUILD and USER leave the frame and the bytes of `commandBytes`, which are those of the encoder. -/
theorem commandRowsProduceTheirFrame : Obligations.CommandRowsProduceTheirFrame := fun seq cmd _ s =>
  ⟨fun h => ⟨congrArg Host.Outcome.next (runOps_ubuild_user_of_fits s h .write seq cmd),
      congrArg Host.Outcome.next (runOps_ubuild_user_of_fits s h .read seq cmd)⟩,
    fun h => ⟨congrArg Host.Outcome.next (runOps_ubuild_user_of_tooLong s h .write seq cmd),
      congrArg Host.Outcome.next (runOps_ubuild_user_of_tooLong s h .read seq cmd)⟩⟩

/-- Settles O13: UPARSE of the encoder's bytes gives the row's fields, R.ERR being flag bit 5. -/
theorem replyRowsAreParsed : Obligations.ReplyRowsAreParsed := by
  intro flag seq data trailing s h
  have hparse := uparse_replyBytes s h flag seq trailing
  exact ⟨fun hflag => congrArg Host.Outcome.next (hparse.trans (by rw [hflag])),
    fun hflag => congrArg Host.Outcome.next (hparse.trans (by rw [hflag]))⟩

/-- Settles O15: the row's ten bytes are a frame with the expected function code, so its address and its checksum
decide. -/
theorem serialRowIsValidated : Obligations.SerialRowIsValidated := by
  intro addr fc d0 d1 d2 ck s
  constructor
  · rintro rfl hck
    exact congrArg Host.Outcome.next (sparse_serialWire hck)
  · intro hbad
    refine congrArg Host.Outcome.next (sparse_of_no_frame fun e0 e1 e2 ck' heq hck => hbad ?_)
    cases heq
    exact ⟨rfl, hck⟩

theorem runOps_singleton (op : State → State) (s : State) : runOps [op] s = op s := by
  simp [runOps]

/-- Settles O16: a row's meaning is the sequence of the effects of the requests it abbreviates. -/
theorem wireRowsAbbreviateRequests : Obligations.WireRowsAbbreviateRequests := by
  intro s
  simp only [runPseudo_eq_runOps, List.map_cons, List.map_nil, runOps_singleton]
  refine ⟨fun _ _ _ => rfl, fun _ _ _ => rfl, fun _ _ _ _ => rfl, fun _ _ _ _ => rfl, fun bytes h => ?_,
    fun bytes h => ?_, fun _ _ _ _ _ _ => rfl⟩
  · exact congrArg Host.Outcome.next (readChunk_of_complete s h)
  · exact congrArg Host.Outcome.next (readChunk_of_incomplete s h)

/-! ## A frame has one serialization, and that one cut into chunks (R80, R86) -/

/-- The 16-bit field at an offset determines the two bytes there (R52). -/
theorem fieldAt_getElem?_eq {b b' : ByteString} {i v : Nat} (h : FieldAt b i v) (h' : FieldAt b' i v) :
    b[i]? = b'[i]? ∧ b[i + 1]? = b'[i + 1]? := by
  obtain ⟨lo, hi, hlo, hhi, hv⟩ := h
  obtain ⟨lo', hi', hlo', hhi', hv'⟩ := h'
  have hbytes := (le16_fromLe16 lo hi).symm.trans ((congrArg le16 (hv.trans hv'.symm)).trans (le16_fromLe16 lo' hi'))
  cases hbytes
  exact ⟨hlo.trans hlo'.symm, hhi.trans hhi'.symm⟩

theorem serializedOf_unique {f : CommandFrame} {sb sb' : SerializedBytes} (h : SerializedOf f sb)
    (h' : SerializedOf f sb') : sb = sb' := by
  obtain ⟨t, b⟩ := sb
  obtain ⟨t', b'⟩ := sb'
  obtain rfl : t = t' := h.total.trans h'.total.symm
  refine congrArg (SerializedBytes.mk t) (List.ext_getElem? fun i => ?_)
  obtain ⟨hl0, hl1⟩ := fieldAt_getElem?_eq h.len h'.len
  obtain ⟨hc0, hc1⟩ := fieldAt_getElem?_eq h.cmd h'.cmd
  match i with
  | 0 => exact h.flag.trans h'.flag.symm
  | 1 => exact h.seq.trans h'.seq.symm
  | 2 => exact hl0
  | 3 => exact hl1
  | 4 => exact hc0
  | 5 => exact hc1
  | j + 6 =>
    rw [Nat.add_comm j 6]
    rcases Nat.lt_or_ge j f.n with hj | hj
    · exact (h.payload j hj).trans (h'.payload j hj).symm
    · have hlen : b.length = f.n + 6 := h.length.trans h.total
      have hlen' : b'.length = f.n + 6 := h'.length.trans h'.total
      rw [List.getElem?_eq_none (by omega), List.getElem?_eq_none (by omega)]

theorem eq_serializeFrame {f : CommandFrame} {sb : SerializedBytes} (hf : FrameOk f) (h : SerializedOf f sb) :
    sb = serializeFrame f :=
  serializedOf_unique h (serializedOf_serializeFrame hf)

theorem chunksOf_unique {sb : SerializedBytes} {cq cq' : ChunkQueue} (h : ChunksOf sb cq) (h' : ChunksOf sb cq') :
    cq = cq' := by
  obtain ⟨k, c⟩ := cq
  obtain ⟨k', c'⟩ := cq'
  obtain rfl : k = k' := h.count.trans h'.count.symm
  refine congrArg (ChunkQueue.mk k) (List.ext_getElem? fun i => ?_)
  rcases Nat.lt_or_ge i k with hi | hi
  · obtain ⟨w, hw, hlen, hbytes⟩ := h.bytes i hi
    obtain ⟨w', hw', hlen', hbytes'⟩ := h'.bytes i hi
    have hww' : w = w' := List.ext_getElem? fun j => by
      rcases Nat.lt_or_ge j 64 with hj | hj
      · exact (hbytes j hj).trans (hbytes' j hj).symm
      · rw [List.getElem?_eq_none (by omega), List.getElem?_eq_none (by omega)]
    exact hw.trans (hww' ▸ hw'.symm)
  · rw [List.getElem?_eq_none (h.length.trans_le hi), List.getElem?_eq_none (h'.length.trans_le hi)]

theorem eq_cutChunks {sb : SerializedBytes} {cq : ChunkQueue} (hlen : sb.b.length = sb.t) (h : ChunksOf sb cq) :
    cq = cutChunks sb :=
  chunksOf_unique h (chunksOf_cutChunks hlen)

/-! ## A complete frame, read back and produced again (log 7) -/

/-- The reply that the serialized bytes of a frame parse to (R142). -/
def replyOf (f : CommandFrame) : ReplyFrame :=
  ⟨commandFlag f.dir, false, f.seq, BitVec.ofNat 16 (f.n + 2), le16 f.cmd.toNat ++ f.pay⟩

section

variable {f : CommandFrame} (hf : FrameOk f)

include hf

theorem len_replyOf : (replyOf f).len.toNat = f.n + 2 := by
  have hfits := hf.fits
  change (BitVec.ofNat 16 (f.n + 2)).toNat = f.n + 2
  rw [BitVec.toNat_ofNat]
  omega

theorem replyOk_replyOf : ReplyOk (replyOf f) := by
  refine ⟨?_, ?_⟩
  · rw [len_replyOf hf, ← hf.length]
    simp [replyOf, Nat.add_comm]
  · rw [← errorFlag_eq_bit]
    exact (errorFlag_commandFlag f.dir).symm

/-- The data of the reply is all that follows the four header bytes. -/
theorem data_replyOf : (replyOf f).data = (serializeFrame f).b.drop 4 := by
  rw [serializeFrame_b hf]
  rfl

/-- Bytes that complete a frame, its serialization and what pads it, leave its reply, the frame, its bytes and its
chunks. -/
theorem readChunk_of_frame {pad : ByteString} (h : completesFrame ((serializeFrame f).b ++ pad) = true) (s : State) :
    readChunk ((serializeFrame f).b ++ pad) s = { s with
      r := some (replyOf f), f := some f, sb := some (serializeFrame f)
      cq := some (cutChunks (serializeFrame f)), status := .ok } := by
  have hlen := len_replyOf hf
  have hfits := hf.fits
  have hview : commandView (replyOf f) = f := commandView_parsed hf false
  rw [readChunk_of_complete s h,
    runOps_reproduce_of_fits (r := replyOf f) s (fun t => uparse_serializeFrame t hf pad) (by omega) (by omega), hview]

end

/-! ## The chunks of a frame in index order (R108) -/

/-- No operation of a chunk's sequence reads STATUS. -/
theorem readChunk_withStatus (bytes : ByteString) (s : State) (st : Status) :
    readChunk bytes { s with status := st } = readChunk bytes s := by
  cases h : completesFrame bytes with
  | false => simp only [readChunk_of_incomplete _ h]
  | true =>
    obtain ⟨r, st', hparse⟩ := exists_uparse_eq bytes
    simp only [readChunk_of_complete _ h, runOps, hparse]

/-- Chunks handed over in order, of which the last alone completes the frame, leave what that last one leaves. -/
theorem runRequests_placedChunks {before : ByteString} {ws : List ByteString} (hne : ws ≠ [])
    (hframe : ∀ k < ws.length,
      completesFrame (before ++ (ws.take (k + 1)).flatten) = decide (k + 1 = ws.length)) (s : State) :
    runRequests (placedChunks before ws) s = .next (readChunk (before ++ ws.flatten) s) := by
  induction ws generalizing before s with
  | nil => exact absurd rfl hne
  | cons w ws ih =>
    rw [placedChunks_cons, runRequests, exec_eq_next]
    change runRequests (placedChunks (before ++ w) ws) (readChunk (before ++ w) s) = _
    cases ws with
    | nil => simp [placedChunks, runRequests]
    | cons v vs =>
      have hmore : completesFrame (before ++ w) = false := by simpa using hframe 0 (by simp)
      have hrest : ∀ k < (v :: vs).length,
          completesFrame (before ++ w ++ ((v :: vs).take (k + 1)).flatten) = decide (k + 1 = (v :: vs).length) :=
        fun k hk => by simpa using hframe (k + 1) (by simpa using hk)
      rw [readChunk_of_incomplete s hmore, ih (by simp) hrest, readChunk_withStatus, List.append_assoc]
      rfl

section

variable {f : CommandFrame} (hf : FrameOk f)

include hf

/-- Chunk 0 of a sound frame begins with its header, LEN being `n + 2` (R80, R124). -/
theorem wireChunk_zero_eq_cons : ∃ l0 l1 tail,
    wireChunk (serializeFrame f) 0 = commandFlag f.dir :: f.seq :: l0 :: l1 :: tail ∧
      l0.toNat + 256 * l1.toNat = f.n + 2 := by
  have hfits := hf.fits
  rw [wireChunk_zero_serializeFrame hf, serializeFrame_b hf]
  refine ⟨_, _, _, rfl, ?_⟩
  rw [← toNat_fromLe16, toNat_fromLe16_le16 (by omega)]

/-- LEN of chunk 0 announces the chunks that follow it in the queue of a sound frame (R108). -/
theorem cutChunks_serializeFrame_c : ∃ b0 b1 l0 l1 tail later,
    (cutChunks (serializeFrame f)).c = (b0 :: b1 :: l0 :: l1 :: tail) :: later ∧
      (b0 :: b1 :: l0 :: l1 :: tail).length = 64 ∧ (∀ w ∈ later, w.length = 64) ∧
      later.length = moreChunks l0 l1 := by
  obtain ⟨l0, l1, tail, hfirst, hlen⟩ := wireChunk_zero_eq_cons hf
  obtain ⟨m, hm⟩ : ∃ m, (f.n + 6 + 63) / 64 = m + 1 := Nat.exists_eq_succ_of_ne_zero (by omega)
  refine ⟨_, _, l0, l1, tail, (List.range m).map fun k => wireChunk (serializeFrame f) (k + 1), ?_,
    (congrArg List.length hfirst).symm.trans (length_wireChunk ..), by simp, ?_⟩
  · rw [← hfirst, cutChunks, chunkCount_eq, serializeFrame_t, hm, List.range_succ_eq_map]
    simp
  · rw [List.length_map, List.length_range, moreChunks, hlen]
    omega

/-- Of the chunks of a sound frame, joined from chunk 0 on, the last completes the frame and no earlier one. -/
theorem completesFrame_cutChunks {k : Nat} (hk : k < (cutChunks (serializeFrame f)).c.length) :
    completesFrame ((cutChunks (serializeFrame f)).c.take (k + 1)).flatten =
      decide (k + 1 = (cutChunks (serializeFrame f)).c.length) := by
  obtain ⟨b0, b1, l0, l1, tail, later, hc, hfirst, hlater, hcount⟩ := cutChunks_serializeFrame_c hf
  rw [hc] at hk ⊢
  rw [completesFrame_joined_chunks hfirst hlater hcount (Nat.le_of_lt_succ hk)]
  simp

/-- All chunks of a sound frame, joined, are read back as the frame and cut again. -/
theorem readChunk_flatten_cutChunks (s : State) :
    readChunk (cutChunks (serializeFrame f)).c.flatten s = { s with
      r := some (replyOf f), f := some f, sb := some (serializeFrame f)
      cq := some (cutChunks (serializeFrame f)), status := .ok } := by
  have hcomplete : completesFrame (cutChunks (serializeFrame f)).c.flatten = true := by
    obtain ⟨b0, b1, l0, l1, tail, later, hc, -⟩ := cutChunks_serializeFrame_c hf
    have hlast := completesFrame_cutChunks hf (k := later.length) (by simp [hc])
    rwa [hc, ← List.length_cons, List.take_length, decide_eq_true rfl, ← hc] at hlast
  rw [flatten_cutChunks (length_serializeFrame_b hf)] at hcomplete ⊢
  exact readChunk_of_frame hf hcomplete s

/-- A reader hands the chunks of a sound frame over as one frame. -/
theorem runRequests_chunkRequests_cutChunks (s : State) :
    runRequests (chunkRequests [] (cutChunks (serializeFrame f)).c) s =
      .next (readChunk (cutChunks (serializeFrame f)).c.flatten s) := by
  obtain ⟨b0, b1, l0, l1, tail, later, hc, -⟩ := cutChunks_serializeFrame_c hf
  have hne : (cutChunks (serializeFrame f)).c ≠ [] := by simp [hc]
  have hframe (k : Nat) (hk : k < (cutChunks (serializeFrame f)).c.length) := completesFrame_cutChunks hf hk
  have hreader := chunkRequests_append_of_frame (before := []) hne hframe []
  rw [List.append_nil, chunkRequests, List.append_nil] at hreader
  rw [hreader]
  exact runRequests_placedChunks hne hframe s

theorem replyOf_fields : ReplyOk (replyOf f) ∧ (replyOf f).flag = flagOf f.dir ∧ (replyOf f).seq = f.seq ∧
    (replyOf f).len.toNat = f.n + 2 ∧ (replyOf f).data = (serializeFrame f).b.drop 4 :=
  ⟨replyOk_replyOf hf, commandFlag_eq_flagOf f.dir, rfl, len_replyOf hf, data_replyOf hf⟩

/-- A frame of at most 58 payload bytes is one chunk, its bytes and zeros (R86, R87). -/
theorem cutChunks_of_short (h : f.n ≤ 58) : cutChunks (serializeFrame f) =
    ⟨1, [(serializeFrame f).b ++ List.replicate (58 - f.n) 0]⟩ := by
  have hk : chunkCount (serializeFrame f).t = 1 := by
    rw [chunkCount_eq, serializeFrame_t]
    omega
  have hpad : 64 * (0 + 1) - (serializeFrame f).t = 58 - f.n := by
    rw [serializeFrame_t]
    omega
  have hchunk := wireChunk_eq_append (length_serializeFrame_b hf) (k := 0) (Nat.zero_le _)
  rw [hpad, Nat.mul_zero, List.drop_zero, List.take_of_length_le] at hchunk
  · rw [cutChunks, hk, ← hchunk]
    rfl
  · rw [length_serializeFrame_b hf, serializeFrame_t]
    omega

end

/-- Settles O56: the chunks of the frame are those UCHUNK cuts, and the reader hands them over as one frame. -/
theorem chunksOfFrameAreReproduced : Obligations.ChunksOfFrameAreReproduced := by
  intro f sb cq s hf hsb hcq
  obtain rfl := eq_serializeFrame hf hsb
  obtain rfl := eq_cutChunks hsb.length hcq
  refine ⟨replyOf f, ?_, replyOf_fields hf⟩
  rw [runRequests_chunkRequests_cutChunks hf, readChunk_flatten_cutChunks hf]

/-- Settles O14: the one chunk is the whole queue of the short frame, joined. -/
theorem singleChunkIsReproduced : Obligations.SingleChunkIsReproduced := by
  intro dir seq cmd pay s hshort frame _ hframe
  have hf := frameOk_of_fits (show pay.length + 6 ≤ 512 by omega) dir seq cmd
  have hsb := eq_serializeFrame hf hframe
  obtain rfl : frame = (serializeFrame ⟨dir, seq, cmd, pay.length, pay⟩).b := congrArg SerializedBytes.b hsb
  have hread := readChunk_flatten_cutChunks hf s
  rw [cutChunks_of_short hf hshort, List.flatten_singleton] at hread
  exact ⟨_, congrArg Host.Outcome.next hread, replyOf_fields hf⟩

end Sys2Proof.Machine
end
